-- ==== Sys2Proof/Word.lean ====
section
/-! DEFINITION. Word.lean: the machine's word and byte types (R4, R7). -/

namespace Sys2Proof

/-- `u64`: a state word, a block, a tag (R7; `W` = 64, R4). -/
abbrev Word := BitVec 64

/-- `u8`: a byte of a buffer, of a key, and the register `LENB` (R7). -/
abbrev Byte := BitVec 8

/-- A ROM index, 0 to 18: the values of `UPC` and of a `tgt` field. The indices 19 to 31 are
unrepresentable, as R27 and R81(c) allow. -/
abbrev RomIndex := Fin 19

/-- The four words the round function works on (R20, R135). -/
structure Quad where
  v0 : Word
  v1 : Word
  v2 : Word
  v3 : Word
  deriving DecidableEq, Repr

end Sys2Proof
end

