-- ==== Sys2Proof/Config.lean ====
section
/-! DEFINITION. Config.lean: what an implementation fixes (R5, R82) and the one free value (R183). -/

namespace Sys2Proof

/-- The open parameters of R5. The machine's state carries them, so that a statement about every state
is one about every implementation; no step changes them (R82). -/
structure Params where
  /-- `IDXW`: the width in bits of the request fields `off` and `cnt`. -/
  idxw : Nat
  /-- `HAS_KEYREAD`: whether the KEYREAD command exists. -/
  hasKeyread : Bool
  deriving DecidableEq, Repr

/-- R5: `IDXW >= 8`. -/
abbrev Params.Wf (p : Params) : Prop := 8 ≤ p.idxw

/-- The defaults R5 gives. -/
def Params.default : Params := { idxw := 32, hasKeyread := true }

/-- FREE VALUE. Which of several requests on offer the n-th acceptance takes is not specified (R183,
U4): this is an uninterpreted choice, applied to the number of requests accepted so far and reduced
modulo the number on offer (DESIGN CHOICE, log entry 3). -/
opaque Config.arbiter : Nat → Nat

end Sys2Proof
end

