-- ==== Sys2Proof/Syntax.lean ====
section
/-! DEFINITION. Syntax.lean: requests, responses and the one instruction type, a constructor per row
of the opcode table (R74, R79). -/

namespace Sys2Proof

/-- A byte buffer, the whole address space of a request (R50): its length and the bytes at the indices
`0 .. len-1`. Only non-zero bytes are listed (rising addresses); an index below `len` that is not listed
holds the byte 0, an index from `len` on does not exist (DESIGN CHOICE of the representation, log
entry 11; the canonical form is `Memory.wf`). -/
structure Memory where
  len : Nat
  cells : List Host.Cell
  deriving DecidableEq, Repr

/-- The operand fields of a request descriptor (R71, R72): every field but `op`. -/
structure ReqFields where
  /-- 1 if a buffer is attached. -/
  pres : Bool
  /-- length in bytes of the attached buffer. -/
  blen : Nat
  /-- offset operand, signed. -/
  off : Int
  /-- count operand, signed. -/
  cnt : Int
  deriving DecidableEq, Repr

/-- The four host commands (R74). -/
inductive Cmd where
  | keyload | keyread | hash | hashr
  deriving DecidableEq, Repr

/-- An instruction of this hardware: a host command with its descriptor's fields and the buffer handed
over beside it (R71, R73), or a micro-operation with its `tgt` field (R78). -/
inductive Instr where
  | keyload (q : ReqFields) (data : Memory)
  | keyread (q : ReqFields) (data : Memory)
  | hash (q : ReqFields) (data : Memory)
  | hashr (q : ReqFields) (data : Memory)
  | idle (tgt : RomIndex)
  | loadv (tgt : RomIndex)
  | test (tgt : RomIndex)
  | ldblk (tgt : RomIndex)
  | ldfin (tgt : RomIndex)
  | inj3 (tgt : RomIndex)
  | round (tgt : RomIndex)
  | inj0 (tgt : RomIndex)
  | mark (tgt : RomIndex)
  | fold (tgt : RomIndex)
  deriving DecidableEq, Repr

/-- An encoded instruction: a request descriptor (bit 0 the least significant) with the buffer handed
over beside it, or a micro-instruction word (R70). -/
inductive Encoded where
  | req (desc : Nat) (data : Memory)
  | uop (word : Nat)
  deriving DecidableEq, Repr

/-- The five errors (R170). -/
inductive ErrorKind where
  | invalidKeyLength | nullMessage | invalidRange | noKey | illegalCommand
  deriving DecidableEq, Repr

/-- The four shapes of a response (R76). -/
inductive Response where
  | ok
  | okTag (tag : Word)
  | okKey (key : List Byte)
  | error (e : ErrorKind)
  deriving DecidableEq, Repr

/-- Why the decoder rejects. -/
inductive Reject where
  /-- `op` is no implemented command (R97); the machine answers it with IllegalCommand. -/
  | illegalOpcode (op : Nat)
  /-- the number does not fit in the descriptor's `8 + 3*IDXW` bits (R70). -/
  | descriptorTooLong
  /-- micro-operation code `0xa` to `0xf` (R81(c)). -/
  | illegalUop (uop : Nat)
  /-- `tgt` is 19 to 31, no ROM index (R81(c)). -/
  | noRomIndex (tgt : Nat)
  /-- the number does not fit in a micro-instruction's 9 bits (R78). -/
  | wordTooLong
  deriving DecidableEq, Repr

end Sys2Proof
end

