-- ==== Sys2Proof/WellFormed.lean ====
section
/-! DEFINITION. WellFormed.lean: which instructions an encoding can carry (R71, R72, R73, R93). -/

namespace Sys2Proof

/-- `x` is a value of an `n`-bit two's-complement field (R72). -/
abbrev FitsSigned (n : Nat) (x : Int) : Prop := -(2 ^ (n - 1) : Int) ≤ x ∧ x < 2 ^ (n - 1)

/-- The descriptor's fields hold values their widths admit (R72). -/
abbrev ReqFields.Fits (p : Params) (q : ReqFields) : Prop :=
  q.blen < 2 ^ (p.idxw - 1) ∧ FitsSigned p.idxw q.off ∧ FitsSigned p.idxw q.cnt

/-- R73, R195: with `pres = 1` the host hands over exactly `blen` bytes. -/
abbrev ReqFields.Honest (q : ReqFields) (data : Memory) : Prop :=
  q.pres = true → data.len = q.blen

/-- An instruction that the encodings of an implementation with parameters `p` carry and an honest host
sends. KEYREAD exists only with HAS_KEYREAD (R93) and ignores its buffer (R75). -/
abbrev Instr.WellFormed (p : Params) : Instr → Prop
  | .keyload q data => q.Fits p ∧ q.Honest data
  | .keyread q _ => q.Fits p ∧ p.hasKeyread = true
  | .hash q data => q.Fits p ∧ q.Honest data
  | .hashr q data => q.Fits p ∧ q.Honest data
  | .idle _ => True
  | .loadv _ => True
  | .test _ => True
  | .ldblk _ => True
  | .ldfin _ => True
  | .inj3 _ => True
  | .round _ => True
  | .inj0 _ => True
  | .mark _ => True
  | .fold _ => True

end Sys2Proof
end

