-- ==== Sys2Proof/Decode.lean ====
section
/-! DEFINITION. Decode.lean: the bit formats REQ, UOP and RSP (R70 to R79), decoder and encoder. -/

namespace Sys2Proof

/-! Bit fields -/

/-- `x[lo+w-1 : lo]` as an unsigned integer (R6). -/
def bitField (x lo w : Nat) : Nat := x / 2 ^ lo % 2 ^ w

/-- `sext_N` (R13). -/
def sext (n x : Nat) : Int := if x < 2 ^ (n - 1) then (x : Int) else (x : Int) - 2 ^ n

/-- The `n`-bit two's-complement pattern of an integer. -/
def twos (n : Nat) (x : Int) : Nat := (x % (2 ^ n : Nat)).toNat

/-! Requests -/

/-- The length in bits of a request descriptor (R70). -/
def Params.reqBits (p : Params) : Nat := 8 + 3 * p.idxw

/-- `op = q[7:0]` (R72). -/
def reqOp (desc : Nat) : Nat := bitField desc 0 8

/-- Operand assembly (R72) at the positions of R71. -/
def reqFields (p : Params) (desc : Nat) : ReqFields :=
  { pres := bitField desc (p.idxw + 7) 1 == 1
    blen := bitField desc 8 (p.idxw - 1)
    off := sext p.idxw (bitField desc (p.idxw + 8) p.idxw)
    cnt := sext p.idxw (bitField desc (2 * p.idxw + 8) p.idxw) }

/-- The command opcode map (R74, R93); all eight bits are decoded. -/
def decodeOp (p : Params) (op : Nat) : Option Cmd :=
  if op = 0x01 then some .keyload
  else if op = 0x02 then (if p.hasKeyread then some .keyread else none)
  else if op = 0x03 then some .hash
  else if op = 0x04 then some .hashr
  else none

/-- A command as an instruction. -/
def Cmd.instr (c : Cmd) (q : ReqFields) (data : Memory) : Instr :=
  match c with
  | .keyload => .keyload q data
  | .keyread => .keyread q data
  | .hash => .hash q data
  | .hashr => .hashr q data

/-- The command of a request descriptor (R71, R74). -/
def decodeCmd (p : Params) (desc : Nat) : Except Reject Cmd :=
  if desc < 2 ^ p.reqBits then
    match decodeOp p (reqOp desc) with
    | some c => .ok c
    | none => .error (.illegalOpcode (reqOp desc))
  else .error .descriptorTooLong

/-- The instruction of a request: its descriptor and the buffer handed over beside it (R71, R73). -/
def decodeReq (p : Params) (desc : Nat) (data : Memory) : Except Reject Instr :=
  match decodeCmd p desc with
  | .ok c => .ok (c.instr (reqFields p desc) data)
  | .error r => .error r

/-- The code of a command (R74). -/
def Cmd.op : Cmd → Nat
  | .keyload => 0x01
  | .keyread => 0x02
  | .hash => 0x03
  | .hashr => 0x04

/-- The descriptor with the given `op` and fields (R71). -/
def encodeReq (p : Params) (op : Nat) (q : ReqFields) : Nat :=
  op + 2 ^ 8 * (q.blen + 2 ^ (p.idxw - 1) * ((if q.pres then 1 else 0) +
    2 * (twos p.idxw q.off + 2 ^ p.idxw * twos p.idxw q.cnt)))

/-! Micro-instructions -/

/-- The micro-operation code map (R79). -/
def uopInstr (uop : Nat) (tgt : RomIndex) : Option Instr :=
  match uop with
  | 0x0 => some (.idle tgt)
  | 0x1 => some (.loadv tgt)
  | 0x2 => some (.test tgt)
  | 0x3 => some (.ldblk tgt)
  | 0x4 => some (.ldfin tgt)
  | 0x5 => some (.inj3 tgt)
  | 0x6 => some (.round tgt)
  | 0x7 => some (.inj0 tgt)
  | 0x8 => some (.mark tgt)
  | 0x9 => some (.fold tgt)
  | _ => none

/-- The instruction of a micro-instruction word: `uop[8:5]`, `tgt[4:0]` (R78, R79, R81(c)). -/
def decodeUop (word : Nat) : Except Reject Instr :=
  if word < 2 ^ 9 then
    if h : bitField word 0 5 < 19 then
      match uopInstr (bitField word 5 4) ⟨bitField word 0 5, h⟩ with
      | some i => .ok i
      | none => .error (.illegalUop (bitField word 5 4))
    else .error (.noRomIndex (bitField word 0 5))
  else .error .wordTooLong

/-- `word = uop * 32 + tgt` (R111). -/
def encodeUop (uop : Nat) (tgt : RomIndex) : Nat := uop * 32 + tgt.val

/-! Both -/

/-- The instruction an encoding carries. -/
def decode (p : Params) : Encoded → Except Reject Instr
  | .req desc data => decodeReq p desc data
  | .uop word => decodeUop word

/-- The encoding of an instruction (R71, R74, R78, R79). -/
def encode (p : Params) : Instr → Encoded
  | .keyload q data => .req (encodeReq p Cmd.keyload.op q) data
  | .keyread q data => .req (encodeReq p Cmd.keyread.op q) data
  | .hash q data => .req (encodeReq p Cmd.hash.op q) data
  | .hashr q data => .req (encodeReq p Cmd.hashr.op q) data
  | .idle tgt => .uop (encodeUop 0x0 tgt)
  | .loadv tgt => .uop (encodeUop 0x1 tgt)
  | .test tgt => .uop (encodeUop 0x2 tgt)
  | .ldblk tgt => .uop (encodeUop 0x3 tgt)
  | .ldfin tgt => .uop (encodeUop 0x4 tgt)
  | .inj3 tgt => .uop (encodeUop 0x5 tgt)
  | .round tgt => .uop (encodeUop 0x6 tgt)
  | .inj0 tgt => .uop (encodeUop 0x7 tgt)
  | .mark tgt => .uop (encodeUop 0x8 tgt)
  | .fold tgt => .uop (encodeUop 0x9 tgt)

/-- The encoding fits in its format's length (R70). -/
def Encoded.fits (p : Params) : Encoded → Prop
  | .req desc _ => desc < 2 ^ p.reqBits
  | .uop word => word < 2 ^ 9

/-- A buffer of `n` zero bytes. -/
def Memory.zeros (n : Nat) : Memory := { len := n, cells := [] }

/-- The encoding a number of `nbits` bits stands for in the opcode table's numbering, under the default
parameters: 9 to 16 bits are a micro-instruction word in whole bytes, any other count a request
descriptor, whose host hands over a buffer of `blen` zero bytes (log entry 14). -/
def tableEncoding (nbits w : Nat) : Encoded :=
  if 8 < nbits ∧ nbits ≤ 16 then .uop w
  else .req w (if (reqFields Params.default w).pres
    then Memory.zeros (reqFields Params.default w).blen else Memory.zeros 0)

/-- The host's question: the instruction the decoder reads from a table row's word. -/
def decodeTableWord (nbits w : Nat) : Option Instr :=
  match decode Params.default (tableEncoding nbits w) with
  | .ok i => some i
  | .error _ => none

/-! Responses -/

/-- The error codes (R170). -/
def ErrorKind.code : ErrorKind → Nat
  | .invalidKeyLength => 1
  | .nullMessage => 2
  | .invalidRange => 3
  | .noKey => 4
  | .illegalCommand => 5

/-- `RSP.err` (R76). -/
def Response.err : Response → Nat
  | .error e => e.code
  | _ => 0

/-- `RSP.tagv` (R76). -/
def Response.tagv : Response → Bool
  | .okTag _ => true
  | _ => false

/-- `RSP.keyv` (R76). -/
def Response.keyv : Response → Bool
  | .okKey _ => true
  | _ => false

/-- `k[0] + k[1]*2^8 + ...` (R76). -/
def keyNumber : List Byte → Nat
  | [] => 0
  | b :: bs => b.toNat + 2 ^ 8 * keyNumber bs

/-- `RSP.payload` (R76): a tag, a key, or zero. -/
def Response.payload : Response → BitVec 128
  | .okTag t => t.zeroExtend 128
  | .okKey k => BitVec.ofNat 128 (keyNumber k)
  | .ok => 0
  | .error _ => 0

/-- The 136-bit response descriptor (R76): `{payload, zero[2:0], keyv, tagv, err[2:0]}`. -/
def Response.encode (r : Response) : BitVec 136 :=
  r.payload ++ (0 : BitVec 3) ++ BitVec.ofBool r.keyv ++ BitVec.ofBool r.tagv ++ BitVec.ofNat 3 r.err

/-- A recovered key has 16 bytes (R92). -/
abbrev Response.WellFormed : Response → Prop
  | .okKey k => k.length = 16
  | _ => True

/-- The errors by their codes; 0, 6 and 7 are none (R170). -/
def errorOfCode (n : Nat) : Option ErrorKind :=
  match n with
  | 1 => some .invalidKeyLength
  | 2 => some .nullMessage
  | 3 => some .invalidRange
  | 4 => some .noKey
  | 5 => some .illegalCommand
  | _ => none

/-- The low `n` bytes of a number, least significant first. -/
def numberBytes : Nat → Nat → List Byte
  | 0, _ => []
  | n + 1, x => BitVec.ofNat 8 x :: numberBytes n (x / 2 ^ 8)

/-- What a host reads from a response descriptor; a descriptor of none of R76's shapes is refused
(codes 6 and 7, non-zero bits 7:5, U12). -/
def Response.decode (w : BitVec 136) : Option Response :=
  if w.extractLsb' 5 3 ≠ 0 then none
  else
    match w.extractLsb' 0 3 == 0, w.getLsbD 3, w.getLsbD 4 with
    | true, false, false => if w.extractLsb' 8 128 = 0 then some .ok else none
    | true, true, false =>
      if w.extractLsb' 72 64 = 0 then some (.okTag (w.extractLsb' 8 64)) else none
    | true, false, true => some (.okKey (numberBytes 16 (w.extractLsb' 8 128).toNat))
    | false, false, false =>
      if w.extractLsb' 8 128 = 0 then
        match errorOfCode (w.extractLsb' 0 3).toNat with
        | some e => some (.error e)
        | none => none
      else none
    | _, _, _ => none

end Sys2Proof
end

