-- ==== Sys2Proof/Machine/State.lean ====
section
/-! DEFINITION. Machine/State.lean: the architectural state (file 10_state.md), the reasons a step can
stop, and the state after reset (R34). -/

namespace Sys2Proof.Machine

/-- A request a host offers at the request port: the REQ descriptor and the bytes handed over beside it
(R71, R73). With `pres = 0` nothing is attached, whatever `data` is. -/
structure Offer where
  desc : Nat
  data : Memory
  deriving DecidableEq, Repr

/-- The registers that can hold no value (R28). -/
inductive Reg where
  | base0 | base1 | v0 | v1 | v2 | v3 | m | ptr | endp | lenb | buf
  deriving DecidableEq, Repr

/-- The state of the engine. `none` in a register is the spec's own 'holds no value' (R28). The fields
`cfg`, `offers`, `responses` and `accepted` are the model's own (log entries 1 to 4). -/
structure State where
  /-- The build parameters (R5, R82); no step changes them. -/
  cfg : Params
  /-- `base[0]` (R21). -/
  base0 : Option Word
  /-- `base[1]` (R21). -/
  base1 : Option Word
  /-- `KEYVALID` (R22). -/
  keyvalid : Bool
  /-- `v[0]` (R20). -/
  v0 : Option Word
  /-- `v[1]` (R20). -/
  v1 : Option Word
  /-- `v[2]` (R20). -/
  v2 : Option Word
  /-- `v[3]` (R20). -/
  v3 : Option Word
  /-- `M` (R23). -/
  m : Option Word
  /-- `PTR` (R24). -/
  ptr : Option Nat
  /-- `END` (R25). -/
  endp : Option Nat
  /-- `LENB` (R26). -/
  lenb : Option Byte
  /-- `BUF` (R29). -/
  buf : Option Memory
  /-- `UPC` (R27). -/
  upc : RomIndex
  /-- What hosts have on offer at the request port (R31, R112). -/
  offers : List Offer
  /-- The responses emitted so far, oldest first (R31, R76, R200). -/
  responses : List Response
  /-- How many requests have been accepted; `Config.arbiter` is applied to it (R183). -/
  accepted : Nat
  deriving DecidableEq, Repr

/-- Why the machine stops with a fault. None is reachable from reset with honest hosts (R28, R61). -/
inductive Fault where
  /-- A register is read while it holds no value. The spec states this stop: a model 'makes a read of `none`
  a fault, not a value' (R28; D19, U1). Raised by KEYREAD, LOADV, TEST, LDBLK, LDFIN, INJ3, ROUND, INJ0, MARK
  and FOLD through the one register read. Safe: the hardware's bits are unspecified there. -/
  | noValue (r : Reg)
  /-- `MemRead` outside the attached buffer (R52): an address that does not exist. Raised by KEYLOAD,
  LDBLK and LDFIN through the one read operation. Safe. -/
  | outsideBuffer (addr : Nat)
  /-- LDFIN with `END - PTR` outside 0 to 7, against its precondition (R127). Safe. -/
  | trailingLength
  /-- TEST's `UPC + 1` past the last ROM index (R27: 19 is never produced). Safe. -/
  | pastRom
  deriving DecidableEq, Repr

/-- Why the machine gives a step no meaning. -/
inductive Refusal where
  /-- An instruction without a meaning; no arm of `exec` answers it. Safe. -/
  | notModelled (mnemonic : String)
  /-- A request whose `blen` is not the number of bytes handed over: the host breaks its contract and
  the outcome is unspecified (R81(d), U3). Raised by KEYLOAD, HASH and HASHR. Safe. -/
  | lengthMismatch
  /-- What is on offer is no descriptor of `8 + 3*IDXW` bits (R70). Raised by IDLE. Safe. -/
  | malformedDescriptor
  /-- A ROM word that carries no micro-operation (R81(c)); the ROM has none. Raised by `step`. Safe. -/
  | undecodable
  deriving DecidableEq, Repr

/-- What a step or a meaning answers. -/
abbrev Out := Host.Outcome State Fault Refusal

/-- The state right after reset (R34, R190). The parameters are R5's defaults; nothing is on offer,
nothing has been answered, nothing accepted (DESIGN CHOICE, log entries 1 to 4). -/
def State.reset : State :=
  { cfg := Params.default
    base0 := none, base1 := none, keyvalid := false
    v0 := none, v1 := none, v2 := none, v3 := none
    m := none, ptr := none, endp := none, lenb := none, buf := none
    upc := 0
    offers := [], responses := [], accepted := 0 }

end Sys2Proof.Machine
end

