-- ==== Sys2Proof/Machine/Ops.lean ====
section
/-! DEFINITION. Machine/Ops.lean: the named operations of R13 on words, buffers and registers, the
register transfers the rules share, and raising an error (R179). -/

namespace Sys2Proof.Machine

/-! Constants (R4) -/

/-- `C0` (R4). -/
def keyC0 : Word := 0x736f6d6570736575
/-- `C1` (R4). -/
def keyC1 : Word := 0x646f72616e646f6d
/-- `C2X` (R4). -/
def initC2X : Word := 0x1F160A001E161714
/-- `C3X` (R4). -/
def initC3X : Word := 0x100A160317100A1E
/-- `FINMARK` (R4). -/
def finMark : Word := 0x00000000000000ff
/-! Words -/

/-- `rotl64(x, n)` by R9's formula, for `1 <= n <= 63`. -/
def rotl64 (x : Word) (n : Nat) : Word := (x <<< n) ||| (x >>> (64 - n))

/-- `SipRound` (R135), the listing line by line; `+` on `Word` is `+64` (R8). -/
def sipRound (a : Quad) : Quad :=
  let b0 := a.v0 + a.v1
  let b2 := a.v2 + a.v3
  let b1 := rotl64 a.v1 13
  let b3 := rotl64 a.v3 16
  let c1 := b1 ^^^ b0
  let c3 := b3 ^^^ b2
  let c0 := rotl64 b0 32
  let d2 := b2 + c1
  let d0 := c0 + c3
  let d1 := rotl64 c1 17
  let d3 := rotl64 c3 21
  let e1 := d1 ^^^ d2
  let e3 := d3 ^^^ d0
  let e2 := rotl64 d2 32
  { v0 := d0, v1 := e1, v2 := e2, v3 := e3 }

/-- `le(b)` (R12): byte `i` at bits `8i+7 : 8i`. -/
def le : List Byte → Word
  | [] => 0
  | b :: bs => b.zeroExtend 64 ||| (le bs <<< 8)

/-- `bytes_le64(x)` (R12): element `i` is `x[8*i+7 : 8*i]`. -/
def bytesLe64 (x : Word) : List Byte :=
  (List.range 8).map fun i => (x >>> (8 * i)).truncate 8

/-! Buffers (file 20_memory.md) -/

/-- The byte a cell list gives an index; an index it does not list holds 0 (log entry 11). -/
def cellAt : List Host.Cell → Nat → Byte
  | [], _ => 0
  | c :: cs, a => if c.1 = a then c.2 else cellAt cs a

/-- The byte at an index of the buffer; none where the index does not exist (R50). -/
def readByte (b : Memory) (a : Nat) : Option Byte :=
  if a < b.len then some (cellAt b.cells a) else none

/-- `MemRead(a, n)` (R52): the `n` bytes from index `a` on; none where the range is not in the buffer. -/
def memRead (b : Memory) (a n : Nat) : Option (List Byte) :=
  if a + n ≤ b.len then some ((List.range n).map fun i => cellAt b.cells (a + i)) else none

/-- All bytes of the buffer, in index order. -/
def memBytes (b : Memory) : List Byte := (List.range b.len).map (cellAt b.cells)

/-- The cells of a byte sequence whose first byte has the index `a`; a zero byte is not listed. -/
def cellsFrom (a : Nat) : List Byte → List Host.Cell
  | [] => []
  | b :: bs => if b = 0 then cellsFrom (a + 1) bs else (a, b) :: cellsFrom (a + 1) bs

/-- The buffer that holds a byte sequence (R73): what a host hands over. -/
def memOfBytes (bs : List Byte) : Memory := { len := bs.length, cells := cellsFrom 0 bs }

/-- Every listed index is at least `lo` and below `hi`, rising, and no listed byte is 0. -/
def cellsWf (lo hi : Nat) : List Host.Cell → Bool
  | [] => true
  | c :: cs => decide (lo ≤ c.1) && decide (c.1 < hi) && decide (c.2 ≠ 0) && cellsWf (c.1 + 1) hi cs

/-- The canonical form of a buffer: equal buffers are equal data (log entry 11). -/
def memWf (b : Memory) : Bool := cellsWf 0 b.len b.cells

/-! Register transfers -/

/-- `UPC <- t` (R13). -/
def State.goto (s : State) (t : RomIndex) : State := { s with upc := t }

/-- Emit a response (R76); emission never blocks (R200, log entry 4). -/
def State.respond (s : State) (r : Response) : State := { s with responses := s.responses ++ [r] }

/-- Write `v[0..3]` (R20). -/
def State.setV (s : State) (q : Quad) : State :=
  { s with v0 := some q.v0, v1 := some q.v1, v2 := some q.v2, v3 := some q.v3 }

/-- Write `v[0]` (R20). -/
def State.setV0 (s : State) (x : Word) : State := { s with v0 := some x }

/-- Write `v[2]` (R20). -/
def State.setV2 (s : State) (x : Word) : State := { s with v2 := some x }

/-- Write `v[3]` (R20). -/
def State.setV3 (s : State) (x : Word) : State := { s with v3 := some x }

/-- Write `M` (R23). -/
def State.setM (s : State) (m : Word) : State := { s with m := some m }

/-- Write `PTR` (R24). -/
def State.setPtr (s : State) (p : Nat) : State := { s with ptr := some p }

/-- Write `base[0..1]` and set `KEYVALID` (R21, R22). -/
def State.setKey (s : State) (b0 b1 : Word) : State :=
  { s with base0 := some b0, base1 := some b1, keyvalid := true }

/-- Attach a buffer with the message range `[p, e)` and the message length's low byte (R24 to R26,
R29). -/
def State.attach (s : State) (b : Memory) (p e : Nat) (l : Byte) : State :=
  { s with buf := some b, ptr := some p, endp := some e, lenb := some l }

/-- Make `v[0..3]`, `M` and `BUF` hold no value (R141, R51). -/
def State.release (s : State) : State :=
  { s with v0 := none, v1 := none, v2 := none, v3 := none, m := none, buf := none }

/-- Accept a request, `rest` staying on offer (R112). -/
def State.accept (s : State) (rest : List Offer) : State :=
  { s with offers := rest, accepted := s.accepted + 1 }

/-! Errors and register reads -/

/-- `raise E` (R179): the response `respond(E)` is emitted and every register is unchanged. This is the
hardware's whole exception entry; there is no return (R180). -/
def raiseError (e : ErrorKind) (s : State) : Out := .next (s.respond (.error e))

/-- Read a register; a read of one that holds no value is a fault, as R28, D19 and U1 state. -/
def withValue {α : Type} (r : Reg) (x : Option α) (k : α → Out) : Out :=
  match x with
  | some a => k a
  | none => .fault (.noValue r)

/-- Read `v[0..3]` (R20). -/
def withV (s : State) (k : Quad → Out) : Out :=
  withValue .v0 s.v0 fun a0 => withValue .v1 s.v1 fun a1 =>
    withValue .v2 s.v2 fun a2 => withValue .v3 s.v3 fun a3 =>
      k { v0 := a0, v1 := a1, v2 := a2, v3 := a3 }

/-- Read `n` bytes of a buffer from index `a` on (R52); outside it the model stops (log entry 16). -/
def withRead (b : Memory) (a n : Nat) (k : List Byte → Out) : Out :=
  match memRead b a n with
  | some bs => k bs
  | none => .fault (.outsideBuffer (if a < b.len then b.len else a))

end Sys2Proof.Machine
end

