-- ==== Sys2Proof/Machine/Operands.lean ====
section
/-! DEFINITION. Machine/Operands.lean: the operands of requests: the attached buffer and the range. -/

namespace Sys2Proof.Machine

/-- The attached buffer of a request (R73): none when `pres = 0`; otherwise the bytes handed over,
refused where their number is not `blen` (R81(d), U3, log entry 6). -/
def withBuffer (q : ReqFields) (data : Memory) (k : Option Memory → Out) : Out :=
  if q.pres then
    if data.len = q.blen then k (some data) else .refused .lengthMismatch
  else k none


/-- The message length modulo 256 (R26, R11). -/
def lengthByte (n : Nat) : Byte := BitVec.ofNat 8 n

end Sys2Proof.Machine
end

