-- ==== Sys2Proof/Machine/Commands.lean ====
section
/-! DEFINITION. Machine/Commands.lean: the four host commands (file 40_commands.md). `xxxCommand` is the
command's pseudocode, what an IDLE step does with an accepted request; `execXxx` is the instruction: a
busy engine accepts no request, which stays where it is offered (R112, log entry 12). -/

namespace Sys2Proof.Machine

/-- KEYLOAD (R90). -/
def keyloadCommand (q : ReqFields) (data : Memory) (s : State) : Out :=
  withBuffer q data fun
    | none => raiseError .invalidKeyLength s
    | some b =>
      if b.len ≠ 16 then raiseError .invalidKeyLength s
      else withRead b 0 8 fun lo => withRead b 8 8 fun hi =>
        .next ((s.setKey (keyC0 ^^^ le lo) (keyC1 ^^^ le hi)).respond .ok)

/-- KEYREAD (R92); without HAS_KEYREAD its opcode is illegal (R93). -/
def keyreadCommand (s : State) : Out :=
  if s.cfg.hasKeyread = false then raiseError .illegalCommand s
  else if s.keyvalid = false then raiseError .noKey s
  else withValue .base0 s.base0 fun b0 => withValue .base1 s.base1 fun b1 =>
    .next (s.respond (.okKey (bytesLe64 (b0 ^^^ keyC0) ++ bytesLe64 (b1 ^^^ keyC1))))

/-- HASH (R94); `tgt` is the entry of the hashing micro-program. -/
def hashCommand (tgt : RomIndex) (q : ReqFields) (data : Memory) (s : State) : Out :=
  withBuffer q data fun buf =>
    if s.keyvalid = false then raiseError .noKey s
    else match buf with
      | none => raiseError .nullMessage s
      | some b => .next ((s.attach b 0 b.len (lengthByte b.len)).goto tgt)

/-- HASHR (R96); `tgt` is the entry of the hashing micro-program. -/
def hashrCommand (tgt : RomIndex) (q : ReqFields) (data : Memory) (s : State) : Out :=
  withBuffer q data fun buf =>
    if s.keyvalid = false then raiseError .noKey s
    else match buf with
      | none => raiseError .nullMessage s
      | some b =>
        if q.off < 0 ∨ q.cnt < 0 ∨ q.off + q.cnt > b.len then raiseError .invalidRange s
        else .next ((s.attach b q.off.toNat (q.off + q.cnt).toNat (lengthByte q.cnt.toNat)).goto tgt)

/-- The entry of the hashing micro-program: the `tgt` field of ROM word 0 (R94, R111). -/
def hashEntry : RomIndex := 1

/-- KEYLOAD as an instruction (R90, R112). -/
def execKeyload (q : ReqFields) (data : Memory) (s : State) : Out :=
  if s.upc = 0 then keyloadCommand q data s else .next s

/-- KEYREAD as an instruction (R92, R112); the descriptor's fields and the buffer are ignored (R75). -/
def execKeyread (s : State) : Out :=
  if s.upc = 0 then keyreadCommand s else .next s

/-- HASH as an instruction (R94, R112). -/
def execHash (q : ReqFields) (data : Memory) (s : State) : Out :=
  if s.upc = 0 then hashCommand hashEntry q data s else .next s

/-- HASHR as an instruction (R96, R112). -/
def execHashr (q : ReqFields) (data : Memory) (s : State) : Out :=
  if s.upc = 0 then hashrCommand hashEntry q data s else .next s

/-- An accepted request (R112's case over `op`): an unimplemented `op` is answered with IllegalCommand
(R97) whatever its other fields and its buffer are. -/
def handleOffer (tgt : RomIndex) (o : Offer) (s : State) : Out :=
  match decodeCmd s.cfg o.desc with
  | .ok .keyload => keyloadCommand (reqFields s.cfg o.desc) o.data s
  | .ok .keyread => keyreadCommand s
  | .ok .hash => hashCommand tgt (reqFields s.cfg o.desc) o.data s
  | .ok .hashr => hashrCommand tgt (reqFields s.cfg o.desc) o.data s
  | .error (.illegalOpcode _) => raiseError .illegalCommand s
  | .error .descriptorTooLong => .refused .malformedDescriptor
  | .error (.illegalUop _) => .refused .malformedDescriptor
  | .error (.noRomIndex _) => .refused .malformedDescriptor
  | .error .wordTooLong => .refused .malformedDescriptor

end Sys2Proof.Machine
end

