-- ==== Sys2Proof/Machine/Function.lean ====
section
/-! DEFINITION. Machine/Function.lean: the function computed (R144, R150 to R153), as the spec states it
beside the steps of the hardware. -/

namespace Sys2Proof.Machine

/-- `k0` of a key (R150). -/
def keyWord0 (key : List Byte) : Word := le (key.take 8)

/-- `k1` of a key (R150). -/
def keyWord1 (key : List Byte) : Word := le ((key.drop 8).take 8)

/-- `base[0]` of a key (R21). -/
def baseOf0 (key : List Byte) : Word := keyC0 ^^^ keyWord0 key

/-- `base[1]` of a key (R21). -/
def baseOf1 (key : List Byte) : Word := keyC1 ^^^ keyWord1 key

/-- The initial working state made from the engine state (R136, R150). -/
def initV (b0 b1 : Word) : Quad :=
  { v0 := b0, v1 := b1, v2 := initC2X ^^^ b0, v3 := initC3X ^^^ b1 }

/-- `block(msg, j)` (R151). -/
def blockAt (msg : List Byte) (j : Nat) : Word := le ((msg.drop (8 * j)).take 8)

/-- `final(msg)` (R151). -/
def finalBlock (msg : List Byte) : Word :=
  (BitVec.ofNat 64 (msg.length % 256) <<< 56) ||| le (msg.drop (8 * (msg.length / 8)))

/-- `blocks(msg)` (R151). -/
def blocks (msg : List Byte) : List Word :=
  (List.range (msg.length / 8)).map (blockAt msg) ++ [finalBlock msg]

/-- `absorb(v, m)` (R144). -/
def absorb (v : Quad) (m : Word) : Quad :=
  let x := sipRound (sipRound { v with v3 := v.v3 ^^^ m })
  { x with v0 := x.v0 ^^^ m }

/-- `finalize(v)` (R152). -/
def finalize (v : Quad) : Quad :=
  sipRound (sipRound (sipRound (sipRound { v with v2 := v.v2 ^^^ finMark })))

/-- `fold(v)` (R152). -/
def foldV (v : Quad) : Word := (v.v0 ^^^ v.v1) ^^^ (v.v2 ^^^ v.v3)

/-- `SipHash24(key, msg)` (R153), for a 16-byte `key` and any `msg`. -/
def sipHash24 (key msg : List Byte) : Word :=
  foldV (finalize ((blocks msg).foldl absorb (initV (baseOf0 key) (baseOf1 key))))

end Sys2Proof.Machine
end

