-- ==== Sys2Proof/Machine/Datapath.lean ====
section
/-! DEFINITION. Machine/Datapath.lean: the micro-operations of the mixing datapath (file
43_datapath.md). None sets a flag and none raises an error. -/

namespace Sys2Proof.Machine

/-- LOADV (R136): create the working state from the engine state. -/
def execLoadv (tgt : RomIndex) (s : State) : Out :=
  withValue .base0 s.base0 fun b0 => withValue .base1 s.base1 fun b1 =>
    .next ((s.setV (initV b0 b1)).goto tgt)

/-- INJ3 (R137): `v[3] <- v[3] ^ M`. -/
def execInj3 (tgt : RomIndex) (s : State) : Out :=
  withValue .v3 s.v3 fun a => withValue .m s.m fun m =>
    .next ((s.setV3 (a ^^^ m)).goto tgt)

/-- ROUND (R138): one application of the round function. -/
def execRound (tgt : RomIndex) (s : State) : Out :=
  withV s fun q => .next ((s.setV (sipRound q)).goto tgt)

/-- INJ0 (R139): `v[0] <- v[0] ^ M`. -/
def execInj0 (tgt : RomIndex) (s : State) : Out :=
  withValue .v0 s.v0 fun a => withValue .m s.m fun m =>
    .next ((s.setV0 (a ^^^ m)).goto tgt)

/-- MARK (R140): `v[2] <- v[2] ^ 0xff`. -/
def execMark (tgt : RomIndex) (s : State) : Out :=
  withValue .v2 s.v2 fun a => .next ((s.setV2 (a ^^^ finMark)).goto tgt)

/-- FOLD (R141): answer with the tag and release the working state and the buffer. -/
def execFold (tgt : RomIndex) (s : State) : Out :=
  withV s fun q => .next (((s.respond (.okTag (foldV q))).release).goto tgt)

end Sys2Proof.Machine
end

