-- ==== Sys2Proof/Machine/Loader.lean ====
section
/-! DEFINITION. Machine/Loader.lean: LDBLK and LDFIN (file 42_block_loader.md). -/

namespace Sys2Proof.Machine

/-- LDBLK (R126): load the next full block. -/
def execLdblk (tgt : RomIndex) (s : State) : Out :=
  withValue .buf s.buf fun b => withValue .ptr s.ptr fun p =>
    withRead b p 8 fun bs =>
      .next (((s.setM (le bs)).setPtr (p + 8)).goto tgt)

/-- LDFIN (R127): build the final padded block. Its precondition is `0 <= END - PTR <= 7`; elsewhere the
rule gives it no effect (log entry 16). -/
def execLdfin (tgt : RomIndex) (s : State) : Out :=
  withValue .buf s.buf fun b => withValue .ptr s.ptr fun p =>
    withValue .endp s.endp fun e => withValue .lenb s.lenb fun l =>
      if p ≤ e ∧ e - p ≤ 7 then
        withRead b p (e - p) fun bs =>
          .next (((s.setM ((l.zeroExtend 64 <<< 56) ||| le bs)).setPtr e).goto tgt)
      else .fault .trailingLength

end Sys2Proof.Machine
end

