-- ==== Sys2Proof/Machine/Flags.lean ====
section
/-! DEFINITION. Machine/Flags.lean: the hardware has no flags and no status register (R30); the one
condition there is, TEST's, is computed each time from `END` and `PTR` and stored nowhere. -/

namespace Sys2Proof.Machine

/-- `END - PTR >= 8`, over the integers (R113, R11): a full block remains. -/
abbrev blockRemains (endp ptr : Nat) : Prop := (endp : Int) - (ptr : Int) ≥ 8

end Sys2Proof.Machine
end

