-- ==== Sys2Proof/Machine/Sequencer.lean ====
section
/-! DEFINITION. Machine/Sequencer.lean: IDLE and TEST (file 41_sequencer.md). -/

namespace Sys2Proof.Machine

/-- Which request an IDLE step takes, and what stays on offer: the only one, or, of several, the one a
free choice `n` selects (R112, R183). -/
def pickOffer (n : Nat) : List Offer → Option (Offer × List Offer)
  | [] => none
  | [o] => some (o, [])
  | o :: os =>
    match (o :: os)[n % (o :: os).length]? with
    | some x => some (x, (o :: os).eraseIdx (n % (o :: os).length))
    | none => none

/-- IDLE (R112): with no request on offer nothing changes; otherwise one is accepted and handled in the
same step. A request is accepted only when `UPC = 0` (log entry 13). -/
def execIdle (tgt : RomIndex) (s : State) : Out :=
  if s.upc = 0 then
    match pickOffer (Config.arbiter s.accepted) s.offers with
    | none => .next s
    | some (o, rest) => handleOffer tgt o (s.accept rest)
  else .next s

/-- `UPC <- UPC + 1` (R113); index 19 does not exist (R27, log entry 16). -/
def gotoNext (s : State) : Out :=
  if h : s.upc.val + 1 < 19 then .next (s.goto ⟨s.upc.val + 1, h⟩) else .fault .pastRom

/-- TEST (R113). -/
def execTest (tgt : RomIndex) (s : State) : Out :=
  withValue .endp s.endp fun e => withValue .ptr s.ptr fun p =>
    if blockRemains e p then gotoNext s else .next (s.goto tgt)

end Sys2Proof.Machine
end

