-- ==== Sys2Proof/Machine/Dispatch.lean ====
section
/-! DEFINITION. Machine/Dispatch.lean: one arm per instruction. -/

namespace Sys2Proof.Machine

/-- The meaning of an instruction. -/
def exec (i : Instr) (s : State) : Host.Outcome State Fault Refusal :=
  match i with
  -- the host commands (file 40_commands.md)
  | .keyload q data => Sys2Proof.Machine.execKeyload q data s
  | .keyread _ _ => Sys2Proof.Machine.execKeyread s
  | .hash q data => Sys2Proof.Machine.execHash q data s
  | .hashr q data => Sys2Proof.Machine.execHashr q data s
  -- the micro-operations (files 41_sequencer.md to 43_datapath.md)
  | .idle tgt => Sys2Proof.Machine.execIdle tgt s
  | .loadv tgt => Sys2Proof.Machine.execLoadv tgt s
  | .test tgt => Sys2Proof.Machine.execTest tgt s
  | .ldblk tgt => Sys2Proof.Machine.execLdblk tgt s
  | .ldfin tgt => Sys2Proof.Machine.execLdfin tgt s
  | .inj3 tgt => Sys2Proof.Machine.execInj3 tgt s
  | .round tgt => Sys2Proof.Machine.execRound tgt s
  | .inj0 tgt => Sys2Proof.Machine.execInj0 tgt s
  | .mark tgt => Sys2Proof.Machine.execMark tgt s
  | .fold tgt => Sys2Proof.Machine.execFold tgt s

end Sys2Proof.Machine
end

