-- ==== Sys2Proof/Machine/Fetch.lean ====
section
/-! DEFINITION. Machine/Fetch.lean: the micro-program ROM (R111) and the placing of an instruction where
the next step takes it. -/

namespace Sys2Proof.Machine

/-- The 19 words of the ROM (R111). -/
def romWords : List Nat :=
  [0x001, 0x022, 0x048, 0x064, 0x0a5, 0x0c6, 0x0c7, 0x0e2, 0x089, 0x0aa,
   0x0cb, 0x0cc, 0x0ed, 0x10e, 0x0cf, 0x0d0, 0x0d1, 0x0d2, 0x120]

/-- `ROM[k]` (R111). -/
def romWord (k : RomIndex) : Nat := romWords.getD k.val 0

/-- The micro-instruction the sequencer executes at its next step, `ROM[UPC]` (R110). -/
def fetch (s : State) : Except Reject Instr := decodeUop (romWord s.upc)

/-- The first index, from `k` on, of a ROM word with the property. -/
def findWord (f : Nat → Bool) (k : Nat) : List Nat → Option Nat
  | [] => none
  | w :: ws => if f w then some k else findWord f (k + 1) ws

/-- Where the ROM holds a micro-instruction word; failing that, where it holds the first word of the
same micro-operation, since the ROM is a constant (R63, log entry 14). -/
def romPlace (word : Nat) : Option Nat :=
  match findWord (fun w => w == word) 0 romWords with
  | some k => some k
  | none => findWord (fun w => bitField w 5 4 == bitField word 5 4) 0 romWords

/-- Give a register a value only where it holds none. -/
def orValue {α : Type} (x : Option α) (a : α) : Option α :=
  match x with
  | some y => some y
  | none => some a

/-- A run that stands at ROM index `k`, as R32 says a state there is: the registers of `s` that hold no
value and that a run holds at `k` get those of a run on a message of eight zero bytes under the key of
sixteen zero bytes; every register that holds a value keeps it (log entry 14). -/
def standAt (k : RomIndex) (s : State) : State :=
  let live := decide (2 ≤ k.val)
  let block := decide (4 ≤ k.val)
  let q := initV keyC0 keyC1
  { s with
    upc := k
    keyvalid := true
    base0 := orValue s.base0 keyC0
    base1 := orValue s.base1 keyC1
    buf := orValue s.buf (Memory.zeros 8)
    ptr := orValue s.ptr (if block then 8 else 0)
    endp := orValue s.endp 8
    lenb := orValue s.lenb 8
    v0 := if live then orValue s.v0 q.v0 else s.v0
    v1 := if live then orValue s.v1 q.v1 else s.v1
    v2 := if live then orValue s.v2 q.v2 else s.v2
    v3 := if live then orValue s.v3 q.v3 else s.v3
    m := if block then orValue s.m 0 else s.m }

/-- `s` with an encoding placed so that the very next step runs it: a request as the only one on offer
to the idle engine, a micro-instruction as the ROM word the sequencer stands at (log entry 14). -/
def placeEncoded (e : Encoded) (s : State) : State :=
  match e with
  | .req desc data => { s with upc := 0, offers := [{ desc := desc, data := data }] }
  | .uop word =>
    match romPlace word with
    | some 0 => { s with upc := 0 }
    | some (k + 1) => if h : k + 1 < 19 then standAt ⟨k + 1, h⟩ s else s
    | none => s

end Sys2Proof.Machine
end

