-- ==== Sys2Proof/Machine/Step.lean ====
section
/-! DEFINITION. Machine/Step.lean: one step of the sequencer (R110). -/

namespace Sys2Proof.Machine

/-- One step executes the micro-instruction `ROM[UPC]` (R110); at IDLE that is accepting and handling a
request (R112). -/
def step (s : State) : Host.Outcome State Fault Refusal :=
  match fetch s with
  | .ok i => exec i s
  | .error _ => .refused .undecodable

/-- `s` with a table row's word placed where the next step takes its instruction (log entry 14). -/
def State.withFetchWord (s : State) (nbits w : Nat) : State := placeEncoded (tableEncoding nbits w) s

end Sys2Proof.Machine
end

