-- ==== Sys2Proof/Machine/HostMoves.lean ====
section
/-! DEFINITION. Machine/HostMoves.lean: what the outside does to the machine between two steps (R31,
R190, R195). No host move changes a buffer that is attached (R196, U2, log entry 7). -/

namespace Sys2Proof.Machine

/-- An act of the outside. -/
inductive HostMove where
  /-- A host offers a request; it stays on offer until an IDLE step takes it (R112). -/
  | offer (o : Offer)
  /-- The reset input is applied (R190). -/
  | reset
  deriving DecidableEq, Repr

/-- A request is put on offer (R112). Its bytes are those the offer carries when it is made and stay so
while it waits: the spec binds the host only from acceptance on (R60, R195, R196) and leaves open whether it
may still change them before; that they are fixed here is the model's choice (DESIGN CHOICE, log
entry 19). -/
def offerRequest (o : Offer) (s : State) : State := { s with offers := s.offers ++ [o] }

/-- The reset event (R190, R192): every register takes its reset value, a run in progress is abandoned
without a response. The build parameters stay (R82), requests on offer stay offered, and what has been
answered stays answered (DESIGN CHOICE, log entry 9). -/
def resetEvent (s : State) : State :=
  { State.reset with
    cfg := s.cfg, offers := s.offers, responses := s.responses, accepted := s.accepted }

/-- The effect of a host move. -/
def hostMove (h : HostMove) (s : State) : State :=
  match h with
  | .offer o => offerRequest o s
  | .reset => resetEvent s

end Sys2Proof.Machine
end

