-- ==== Sys2Proof/Safety.lean ====
section
/-! DEFINITION. Safety.lean: what a good state is (R32), an honest host (R195), canonical buffers, and
how far a run has to go (R117). Statements use these terms. -/

namespace Sys2Proof.Machine

/-- A host keeps its contract (R195, R73): the descriptor has `8 + 3*IDXW` bits, and with `pres = 1`
exactly `blen` bytes are handed over. -/
def Offer.Honest (p : Params) (o : Offer) : Prop :=
  o.desc < 2 ^ p.reqBits ∧ (reqFields p o.desc).Honest o.data

/-- Every request on offer is a host's that keeps its contract. -/
def State.OffersHonest (s : State) : Prop := ∀ o ∈ s.offers, o.Honest s.cfg

/-- The message range of a run in progress (R32(b), (c)), with what TEST and LDFIN have established at
the indices after them: the buffer `b`, `PTR`, `END`, `LENB`, and the value `p0` of `PTR` at dispatch. -/
structure RunRange (k : RomIndex) (b : Memory) (p e p0 : Nat) (l : Byte) : Prop where
  start_le : p0 ≤ p
  ptr_le : p ≤ e
  end_le : e ≤ b.len
  length_byte : l.toNat = (e - p0) % 256
  whole_blocks : k.val ≤ 8 → (p - p0) % 8 = 0
  block_left : k.val = 3 → 8 ≤ e - p
  tail_left : k.val = 8 → e - p ≤ 7
  all_read : 9 ≤ k.val → p = e

/-- The state invariants of R32, (b) to (g); (a) holds by the type of `UPC`. The bound on the buffer's
length gives the widths of `PTR` and `END` (R24, R25). -/
structure Inv (s : State) : Prop where
  cfg_wf : s.cfg.Wf
  base0_iff : s.base0.isSome = true ↔ s.keyvalid = true
  base1_iff : s.base1.isSome = true ↔ s.keyvalid = true
  idle_released : s.upc.val = 0 → s.buf = none ∧ s.m = none
  v0_iff : s.v0.isSome = true ↔ 2 ≤ s.upc.val
  v1_iff : s.v1.isSome = true ↔ 2 ≤ s.upc.val
  v2_iff : s.v2.isSome = true ↔ 2 ≤ s.upc.val
  v3_iff : s.v3.isSome = true ↔ 2 ≤ s.upc.val
  block_loaded : (4 ≤ s.upc.val ∧ s.upc.val ≤ 7) ∨ 9 ≤ s.upc.val → s.m.isSome = true
  running : s.upc.val ≠ 0 → s.keyvalid = true ∧ ∃ b p e l p0,
    s.buf = some b ∧ s.ptr = some p ∧ s.endp = some e ∧ s.lenb = some l ∧
    b.len < 2 ^ (s.cfg.idxw - 1) ∧ RunRange s.upc b p e p0 l

/-- The idle engine's next IDLE step takes the request `o`, the requests `rest` staying on offer (R112).
With one request on offer it is that one; of several it is the one the free choice takes (R183, log
entry 3), so a statement with this premise holds for every order. -/
def State.Accepts (s : State) (o : Offer) (rest : List Offer) : Prop :=
  pickOffer (Config.arbiter s.accepted) s.offers = some (o, rest)

/-- Every buffer the state holds is in the canonical form (log entry 11). -/
def Canonical (s : State) : Prop :=
  (∀ b, s.buf = some b → memWf b = true) ∧ ∀ o ∈ s.offers, memWf o.data = true

/-- The byte at an index of the attached buffer (R50, R52). -/
def attachedByte (s : State) (a : Nat) : Option Byte :=
  match s.buf with
  | some b => readByte b a
  | none => none

/-- A run is in progress (R27): busy, 1, or idle, 0. -/
def runsOpen (s : State) : Nat := if s.upc = 0 then 0 else 1

/-- How many steps a run that stands at ROM index `k` with `n` bytes not yet loaded still takes, the
FOLD step included (R117). -/
def stepsLeft (k : RomIndex) (n : Nat) : Nat :=
  match k.val with
  | 0 => 0
  | 1 => 13 + 6 * (n / 8)
  | 2 => 12 + 6 * (n / 8)
  | 3 => 11 + 6 * (n / 8)
  | 4 => 16 + 6 * (n / 8)
  | 5 => 15 + 6 * (n / 8)
  | 6 => 14 + 6 * (n / 8)
  | 7 => 13 + 6 * (n / 8)
  | j => 19 - j

/-- The step from one ROM index to another is one of R115's paths. -/
def romEdge (j k : RomIndex) : Prop :=
  (j.val = 0 ∧ (k.val = 0 ∨ k.val = 1)) ∨ (j.val = 2 ∧ (k.val = 3 ∨ k.val = 8)) ∨
  (j.val = 7 ∧ k.val = 2) ∨ (j.val = 18 ∧ k.val = 0) ∨
  (j.val ≠ 0 ∧ j.val ≠ 2 ∧ j.val ≠ 7 ∧ j.val ≠ 18 ∧ k.val = j.val + 1)

/-! What a step leaves alone: the groups of fields a frame names. -/

/-- The build parameters and the engine state are unchanged (R5, R21, R22). -/
structure SameEngine (s t : State) : Prop where
  cfg : t.cfg = s.cfg
  base0 : t.base0 = s.base0
  base1 : t.base1 = s.base1
  keyvalid : t.keyvalid = s.keyvalid

/-- The working state is unchanged (R20). -/
structure SameWorking (s t : State) : Prop where
  v0 : t.v0 = s.v0
  v1 : t.v1 = s.v1
  v2 : t.v2 = s.v2
  v3 : t.v3 = s.v3

/-- The loader's range registers are unchanged (R24, R25, R26). -/
structure SameRange (s t : State) : Prop where
  ptr : t.ptr = s.ptr
  endp : t.endp = s.endp
  lenb : t.lenb = s.lenb

/-- Nothing passes the ports: the offers and the number accepted are unchanged (R31). -/
structure SameOffers (s t : State) : Prop where
  offers : t.offers = s.offers
  accepted : t.accepted = s.accepted

/-- Every byte of the attached buffer reads as before, and the attachment itself stands (R53). -/
structure SameMemory (s t : State) : Prop where
  buf : t.buf = s.buf
  bytes : ∀ a, attachedByte t a = attachedByte s a

end Sys2Proof.Machine
end

