-- ==== Sys2Proof/Certificates/Slice0/Obligations.lean ====
section
/-! DEFINITION. Certificates/Slice0/Obligations.lean: the statements for the provers. Constants and
register transfers are written out from the spec's rules, not taken from the model's definitions. -/

open Sys2Proof Sys2Proof.Machine

/-! ## Reset and the outside -/

/-- R34: the state after reset. -/
def Obligations.ResetState : Prop :=
  State.reset.upc = 0 ∧ State.reset.keyvalid = false ∧
  State.reset.base0 = none ∧ State.reset.base1 = none ∧
  State.reset.v0 = none ∧ State.reset.v1 = none ∧ State.reset.v2 = none ∧ State.reset.v3 = none ∧
  State.reset.m = none ∧ State.reset.ptr = none ∧ State.reset.endp = none ∧
  State.reset.lenb = none ∧ State.reset.buf = none

/-- R32 at reset: the invariants hold in the reset state. -/
def Obligations.InvHoldsAtReset : Prop := Inv State.reset

/-- R190, R192: the reset event gives the reset state from every state, idle or running; a run in progress is
abandoned without a response and its buffer released. Reset is the only event that clears KEYVALID: no step
and no request put on offer does. -/
def Obligations.ResetAbandonsRun : Prop :=
  (∀ s : State,
    (hostMove .reset s).responses = s.responses ∧
    (hostMove .reset s).upc = 0 ∧ (hostMove .reset s).keyvalid = false ∧
    (hostMove .reset s).base0 = none ∧ (hostMove .reset s).base1 = none ∧
    (hostMove .reset s).v0 = none ∧ (hostMove .reset s).v1 = none ∧
    (hostMove .reset s).v2 = none ∧ (hostMove .reset s).v3 = none ∧
    (hostMove .reset s).m = none ∧ (hostMove .reset s).ptr = none ∧
    (hostMove .reset s).endp = none ∧ (hostMove .reset s).lenb = none ∧
    (hostMove .reset s).buf = none) ∧
  ∀ s t : State, (step s = .next t ∨ ∃ o, t = hostMove (.offer o) s) →
    s.keyvalid = true → t.keyvalid = true

/-- R82 and R22: no step changes the build parameters (held in the state by the model's choice, log entry
1), and no step clears KEYVALID. -/
def Obligations.StepKeepsParamsAndKeyvalid : Prop :=
  ∀ s t : State, step s = .next t →
    t.cfg = s.cfg ∧ (s.keyvalid = true → t.keyvalid = true)

/-! ## Encodings -/

/-- Decoding the encoding of a well-formed instruction gives it back, for every implementation. -/
def Obligations.DecodeEncodeRoundTrip : Prop :=
  ∀ (p : Params) (i : Instr), p.Wf → i.WellFormed p → decode p (encode p i) = .ok i

/-- Some words of 30_encoding.md section 7 and of R111 decode to what they stand for; the buffer handed over
is one of `blen` zero bytes (the model's choice, log entry 14). -/
def Obligations.SampleWordsDecode : Prop :=
  decodeTableWord 104 0x00000000000000008000001001 =
    some (.keyload { pres := true, blen := 16, off := 0, cnt := 0 } (Memory.zeros 16)) ∧
  decodeTableWord 104 0x00000000000000000000000002 =
    some (.keyread { pres := false, blen := 0, off := 0, cnt := 0 } (Memory.zeros 0)) ∧
  decodeTableWord 104 0x00000000000000008000000f03 =
    some (.hash { pres := true, blen := 15, off := 0, cnt := 0 } (Memory.zeros 15)) ∧
  decodeTableWord 104 0x00000004ffffffff8000001404 =
    some (.hashr { pres := true, blen := 20, off := -1, cnt := 4 } (Memory.zeros 20)) ∧
  decodeTableWord 16 0x048 = some (.test 8) ∧
  decodeTableWord 16 0x089 = some (.ldfin 9) ∧
  decodeTableWord 16 0x0ed = some (.inj0 13)

/-- R111: the ROM's 19 words and the micro-instruction each of them is. -/
def Obligations.RomListing : Prop :=
  (List.finRange 19).map romWord =
    [0x001, 0x022, 0x048, 0x064, 0x0a5, 0x0c6, 0x0c7, 0x0e2, 0x089, 0x0aa,
     0x0cb, 0x0cc, 0x0ed, 0x10e, 0x0cf, 0x0d0, 0x0d1, 0x0d2, 0x120] ∧
  (List.finRange 19).map (fun k => decodeUop (romWord k)) =
    [.ok (.idle 1), .ok (.loadv 2), .ok (.test 8), .ok (.ldblk 4), .ok (.inj3 5),
     .ok (.round 6), .ok (.round 7), .ok (.inj0 2), .ok (.ldfin 9), .ok (.inj3 10),
     .ok (.round 11), .ok (.round 12), .ok (.inj0 13), .ok (.mark 14), .ok (.round 15),
     .ok (.round 16), .ok (.round 17), .ok (.round 18), .ok (.fold 0)]

/-- R81(c): a number is a micro-instruction word exactly when it has 9 bits, a code `0x0` to `0x9` and a
target that is a ROM index. -/
def Obligations.MicroWordsDecodeExactly : Prop :=
  ∀ w : Nat, (∃ i, decodeUop w = .ok i) ↔ w < 512 ∧ w / 32 ≤ 9 ∧ w % 32 ≤ 18

/-- R74: the command opcode map; only bits 7:0 select the command. -/
def Obligations.OpcodeMap : Prop :=
  ∀ (p : Params) (desc : Nat) (data : Memory), desc < 2 ^ p.reqBits →
    (desc % 256 = 0x01 → decodeReq p desc data = .ok (.keyload (reqFields p desc) data)) ∧
    (desc % 256 = 0x02 → p.hasKeyread = true →
      decodeReq p desc data = .ok (.keyread (reqFields p desc) data)) ∧
    (desc % 256 = 0x02 → p.hasKeyread = false →
      decodeReq p desc data = .error (.illegalOpcode 0x02)) ∧
    (desc % 256 = 0x03 → decodeReq p desc data = .ok (.hash (reqFields p desc) data)) ∧
    (desc % 256 = 0x04 → decodeReq p desc data = .ok (.hashr (reqFields p desc) data)) ∧
    (desc % 256 = 0x00 ∨ 0x05 ≤ desc % 256 →
      decodeReq p desc data = .error (.illegalOpcode (desc % 256)))

/-- R76: a host reads from a response descriptor the response that was put into it. -/
def Obligations.ResponseRoundTrip : Prop :=
  ∀ r : Response, r.WellFormed → Response.decode r.encode = some r

/-- R76: the fields of the response descriptor, the place of a tag and of a key's bytes, and the error
codes of R170. -/
def Obligations.ResponseLayout : Prop :=
  (∀ t : Word, (Response.okTag t).encode.extractLsb' 0 8 = 0x08 ∧
    (Response.okTag t).encode.extractLsb' 8 64 = t ∧
    (Response.okTag t).encode.extractLsb' 72 64 = 0) ∧
  (∀ k : List Byte, k.length = 16 → (Response.okKey k).encode.extractLsb' 0 8 = 0x10 ∧
    ∀ (i : Nat) (b : Byte), k[i]? = some b →
      (Response.okKey k).encode.extractLsb' (8 * i + 8) 8 = b) ∧
  Response.ok.encode = 0 ∧
  (Response.error .invalidKeyLength).encode = 1 ∧ (Response.error .nullMessage).encode = 2 ∧
  (Response.error .invalidRange).encode = 3 ∧ (Response.error .noKey).encode = 4 ∧
  (Response.error .illegalCommand).encode = 5

/-! ## Operators -/

/-- R12: `le` is the sum of the bytes' weights, and the two byte orders undo each other. -/
def Obligations.LittleEndian : Prop :=
  (∀ b : List Byte, b.length ≤ 8 → (le b).toNat =
    ((List.range b.length).map fun i => (b.getD i 0).toNat * 2 ^ (8 * i)).sum) ∧
  (∀ x : Word, le (bytesLe64 x) = x) ∧
  (∀ x : Word, (bytesLe64 x).length = 8 ∧
    ∀ i, i < 8 → (bytesLe64 x)[i]? = some (x.extractLsb' (8 * i) 8)) ∧
  (∀ b : List Byte, b.length = 8 → bytesLe64 (le b) = b)

/-- R9: the rotation's formula on unbounded integers, and where each bit goes. -/
def Obligations.RotationMovesBits : Prop :=
  ∀ (x : Word) (n : Nat), 1 ≤ n → n ≤ 63 →
    (rotl64 x n).toNat = ((x.toNat <<< n) % 2 ^ 64) ||| (x.toNat >>> (64 - n)) ∧
    ∀ i, i < 64 → (rotl64 x n).getLsbD ((i + n) % 64) = x.getLsbD i

/-- R142: the round function is a bijection with the all-zero state as a fixed point. -/
def Obligations.SipRoundBijective : Prop :=
  (∀ b : Quad, ∃ a : Quad, sipRound a = b ∧ ∀ a' : Quad, sipRound a' = b → a' = a) ∧
  sipRound { v0 := 0, v1 := 0, v2 := 0, v3 := 0 } = { v0 := 0, v1 := 0, v2 := 0, v3 := 0 }

/-- R144: INJ3, ROUND, ROUND, INJ0 with a block `m` apply `absorb` to the working state. -/
def Obligations.AbsorbSequence : Prop :=
  ∀ (s : State) (q : Quad) (m : Word) (a b c d : RomIndex),
    s.v0 = some q.v0 → s.v1 = some q.v1 → s.v2 = some q.v2 → s.v3 = some q.v3 → s.m = some m →
    ∃ s1 s2 s3, exec (.inj3 a) s = .next s1 ∧ exec (.round b) s1 = .next s2 ∧
      exec (.round c) s2 = .next s3 ∧
      exec (.inj0 d) s3 = .next { s with
        v0 := some (absorb q m).v0, v1 := some (absorb q m).v1,
        v2 := some (absorb q m).v2, v3 := some (absorb q m).v3, upc := d }

/-! ## Host commands -/

/-- R90: KEYLOAD loads the key, or, the key absent or not of 16 bytes, answers InvalidKeyLength and
changes no register. -/
def Obligations.KeyloadLoadsOrRejects : Prop :=
  ∀ (q : ReqFields) (data : Memory) (s : State), s.upc = 0 → q.Honest data →
    (q.pres = true → q.blen = 16 → exec (.keyload q data) s = .next { s with
      base0 := some (0x736f6d6570736575 ^^^ le ((memBytes data).take 8))
      base1 := some (0x646f72616e646f6d ^^^ le (((memBytes data).drop 8).take 8))
      keyvalid := true
      responses := s.responses ++ [.ok] }) ∧
    (q.pres = false ∨ q.blen ≠ 16 → exec (.keyload q data) s = .next { s with
      responses := s.responses ++ [.error .invalidKeyLength] })

/-- R92, R93: KEYREAD answers with the key, NoKey before a key is loaded, and IllegalCommand where the
accessor does not exist; it writes no register. -/
def Obligations.KeyreadAnswersKey : Prop :=
  ∀ (q : ReqFields) (data : Memory) (s : State), s.upc = 0 →
    (s.cfg.hasKeyread = false → exec (.keyread q data) s = .next { s with
      responses := s.responses ++ [.error .illegalCommand] }) ∧
    (s.cfg.hasKeyread = true → s.keyvalid = false → exec (.keyread q data) s = .next { s with
      responses := s.responses ++ [.error .noKey] }) ∧
    (∀ b0 b1 : Word, s.cfg.hasKeyread = true → s.keyvalid = true →
      s.base0 = some b0 → s.base1 = some b1 → exec (.keyread q data) s = .next { s with
        responses := s.responses ++ [.okKey
          (bytesLe64 (b0 ^^^ 0x736f6d6570736575) ++ bytesLe64 (b1 ^^^ 0x646f72616e646f6d))] })

/-- R92's corner case: KEYREAD after KEYLOAD returns, byte for byte, the buffer that was loaded. -/
def Obligations.KeyreadReturnsLoadedKey : Prop :=
  ∀ (q q' : ReqFields) (data data' : Memory) (s : State),
    s.upc = 0 → s.cfg.hasKeyread = true → q.pres = true → q.blen = 16 → data.len = 16 →
    ∃ t u, exec (.keyload q data) s = .next t ∧ exec (.keyread q' data') t = .next u ∧
      u.responses = s.responses ++ [.ok, .okKey (memBytes data)]

/-- R94: HASH's dispatch. -/
def Obligations.HashStartsRun : Prop :=
  ∀ (q : ReqFields) (data : Memory) (s : State), s.upc = 0 → q.Honest data →
    (s.keyvalid = false → exec (.hash q data) s = .next { s with
      responses := s.responses ++ [.error .noKey] }) ∧
    (s.keyvalid = true → q.pres = false → exec (.hash q data) s = .next { s with
      responses := s.responses ++ [.error .nullMessage] }) ∧
    (s.keyvalid = true → q.pres = true → exec (.hash q data) s = .next { s with
      buf := some data, ptr := some 0, endp := some data.len
      lenb := some (BitVec.ofNat 8 (data.len % 256)), upc := 1 })

/-- R96: HASHR's dispatch; the sum `off + cnt` is over the integers. -/
def Obligations.HashrStartsRun : Prop :=
  ∀ (q : ReqFields) (data : Memory) (s : State), s.upc = 0 → q.Honest data →
    (s.keyvalid = false → exec (.hashr q data) s = .next { s with
      responses := s.responses ++ [.error .noKey] }) ∧
    (s.keyvalid = true → q.pres = false → exec (.hashr q data) s = .next { s with
      responses := s.responses ++ [.error .nullMessage] }) ∧
    (s.keyvalid = true → q.pres = true →
      q.off < 0 ∨ q.cnt < 0 ∨ q.off + q.cnt > data.len → exec (.hashr q data) s = .next { s with
        responses := s.responses ++ [.error .invalidRange] }) ∧
    (∀ off cnt : Nat, s.keyvalid = true → q.pres = true → q.off = off → q.cnt = cnt →
      off + cnt ≤ data.len → exec (.hashr q data) s = .next { s with
        buf := some data, ptr := some off, endp := some (off + cnt)
        lenb := some (BitVec.ofNat 8 (cnt % 256)), upc := 1 })

/-- R97: an offered request whose `op` is no implemented command is answered with IllegalCommand, before
the KEYVALID test and whatever is handed over with it; no register is written. -/
def Obligations.IllegalOpcodeAnswered : Prop :=
  ∀ (s : State) (o : Offer), s.upc = 0 → s.offers = [o] → o.desc < 2 ^ s.cfg.reqBits →
    (o.desc % 256 = 0x00 ∨ 0x05 ≤ o.desc % 256 ∨
      (o.desc % 256 = 0x02 ∧ s.cfg.hasKeyread = false)) →
    step s = .next { s with
      offers := [], accepted := s.accepted + 1
      responses := s.responses ++ [.error .illegalCommand] }

/-- R178: a request that violates several preconditions reports the first in the order IllegalCommand,
NoKey, NullMessage or InvalidKeyLength, InvalidRange, and changes no register. -/
def Obligations.ErrorPriority : Prop :=
  ∀ (s : State) (o : Offer) (e : ErrorKind),
    s.upc = 0 → s.offers = [o] → o.Honest s.cfg →
    (let op := o.desc % 256
     let q := reqFields s.cfg o.desc
     let illegal := op = 0x00 ∨ 0x05 ≤ op ∨ (op = 0x02 ∧ s.cfg.hasKeyread = false)
     let needsKey := op = 0x02 ∨ op = 0x03 ∨ op = 0x04
     let needsMessage := op = 0x03 ∨ op = 0x04
     let badKey := op = 0x01 ∧ (q.pres = false ∨ q.blen ≠ 16)
     let badRange := op = 0x04 ∧ (q.off < 0 ∨ q.cnt < 0 ∨ q.off + q.cnt > q.blen)
     (illegal ∧ e = .illegalCommand) ∨
     (¬ illegal ∧ needsKey ∧ s.keyvalid = false ∧ e = .noKey) ∨
     (¬ illegal ∧ needsMessage ∧ s.keyvalid = true ∧ q.pres = false ∧ e = .nullMessage) ∨
     (¬ illegal ∧ badKey ∧ e = .invalidKeyLength) ∨
     (¬ illegal ∧ badRange ∧ s.keyvalid = true ∧ q.pres = true ∧ e = .invalidRange)) →
    step s = .next { s with
      offers := [], accepted := s.accepted + 1, responses := s.responses ++ [.error e] }

/-- R179: raising an error emits its response and leaves every register unchanged. -/
def Obligations.ErrorEntry : Prop :=
  ∀ (e : ErrorKind) (s : State),
    raiseError e s = .next { s with responses := s.responses ++ [.error e] } ∧
    (Response.error e).payload = 0 ∧ (Response.error e).tagv = false ∧
    (Response.error e).keyv = false ∧ (Response.error e).err = e.code

/-- R75: the fields a command does not use are ignored: `off` and `cnt` by KEYLOAD and HASH, the
descriptor's fields and the buffer by KEYREAD. -/
def Obligations.UnusedFieldsIgnored : Prop :=
  ∀ (q : ReqFields) (data data' : Memory) (off cnt : Int) (q' : ReqFields) (s : State),
    exec (.keyload { q with off := off, cnt := cnt } data) s = exec (.keyload q data) s ∧
    exec (.hash { q with off := off, cnt := cnt } data) s = exec (.hash q data) s ∧
    exec (.keyread q' data') s = exec (.keyread q data) s

/-- R112: a busy engine accepts nothing: what is on offer stays on offer, by a step and by a command
given to it alone (log entry 12). -/
def Obligations.BusyEngineAcceptsNothing : Prop :=
  (∀ s t : State, s.upc ≠ 0 → step s = .next t →
    t.offers = s.offers ∧ t.accepted = s.accepted) ∧
  (∀ (q : ReqFields) (data : Memory) (s : State), s.upc ≠ 0 →
    exec (.keyload q data) s = .next s ∧ exec (.keyread q data) s = .next s ∧
    exec (.hash q data) s = .next s ∧ exec (.hashr q data) s = .next s)

/-! ## The sequencer -/

/-- R110: a step executes the micro-instruction `ROM[UPC]`. -/
def Obligations.StepRunsRomWord : Prop :=
  ∀ (s : State) (i : Instr), decodeUop (romWord s.upc) = .ok i → step s = exec i s

/-- R112: the step of an idle engine runs the instruction that the request it accepts decodes to, the
request taken off the port and counted (the model's fields, log entries 2 and 3), whatever else is on
offer. -/
def Obligations.StepRunsOfferedRequest : Prop :=
  ∀ (s : State) (o : Offer) (rest : List Offer) (i : Instr), s.upc = 0 → s.Accepts o rest →
    decodeReq s.cfg o.desc o.data = .ok i →
    step s = exec i { s with offers := rest, accepted := s.accepted + 1 }

/-- R112, R183: with no request on offer IDLE changes nothing; with several it accepts and handles
exactly one of them, whichever the open choice takes (a free value, log entry 3). -/
def Obligations.IdleAcceptsAtMostOne : Prop :=
  (∀ (tgt : RomIndex) (s : State), s.upc = 0 → s.offers = [] → exec (.idle tgt) s = .next s) ∧
  (∀ s : State, s.upc = 0 → s.offers ≠ [] → ∃ k o, s.offers[k]? = some o ∧
    ∀ tgt, exec (.idle tgt) s = handleOffer tgt o
      { s with offers := s.offers.eraseIdx k, accepted := s.accepted + 1 })

/-- R112: IDLE accepting a HASH that passes its checks goes to its `tgt`; accepting a KEYLOAD of 16 bytes
it loads the key and `UPC` stays 0. -/
def Obligations.IdleDispatches : Prop :=
  ∀ (tgt : RomIndex) (s : State) (o : Offer), s.upc = 0 → s.offers = [o] → o.Honest s.cfg →
    (reqFields s.cfg o.desc).pres = true →
    (o.desc % 256 = 0x03 → s.keyvalid = true → exec (.idle tgt) s = .next { s with
      offers := [], accepted := s.accepted + 1
      buf := some o.data, ptr := some 0, endp := some o.data.len
      lenb := some (BitVec.ofNat 8 (o.data.len % 256)), upc := tgt }) ∧
    (o.desc % 256 = 0x01 → o.data.len = 16 → exec (.idle tgt) s = .next { s with
      offers := [], accepted := s.accepted + 1
      base0 := some (0x736f6d6570736575 ^^^ le ((memBytes o.data).take 8))
      base1 := some (0x646f72616e646f6d ^^^ le (((memBytes o.data).drop 8).take 8))
      keyvalid := true
      responses := s.responses ++ [.ok] })

/-- R113: TEST goes to `UPC + 1` when a full block remains, else to `tgt`, and writes nothing else. -/
def Obligations.TestBranches : Prop :=
  ∀ (tgt : RomIndex) (s : State) (p e : Nat), s.ptr = some p → s.endp = some e →
    ((e : Int) - p ≥ 8 → ∀ k : RomIndex, k.val = s.upc.val + 1 →
      exec (.test tgt) s = .next { s with upc := k }) ∧
    ((e : Int) - p < 8 → exec (.test tgt) s = .next { s with upc := tgt })

/-! ## The block loader -/

/-- R126's transfers: LDBLK loads the next full block. R126 gives them under `END - PTR >= 8`; that they
also hold where fewer bytes of the message remain, or `END` holds no value, as long as the buffer has the
eight bytes, is the model's choice (log entry 16). -/
def Obligations.LdblkLoadsBlock : Prop :=
  ∀ (tgt : RomIndex) (s : State) (b : Memory) (p : Nat),
    s.buf = some b → s.ptr = some p → p + 8 ≤ b.len →
    exec (.ldblk tgt) s = .next { s with
      m := some (le (((memBytes b).drop p).take 8)), ptr := some (p + 8), upc := tgt }

/-- R127: LDFIN builds the final padded block. -/
def Obligations.LdfinBuildsFinalBlock : Prop :=
  ∀ (tgt : RomIndex) (s : State) (b : Memory) (p e : Nat) (l : Byte),
    s.buf = some b → s.ptr = some p → s.endp = some e → s.lenb = some l →
    p ≤ e → e - p ≤ 7 → e ≤ b.len →
    exec (.ldfin tgt) s = .next { s with
      m := some ((l.zeroExtend 64 <<< 56) ||| le (((memBytes b).drop p).take (e - p)))
      ptr := some e, upc := tgt }

/-- R127, byte by byte: the length byte on top, the trailing bytes at the bottom, zeros between. -/
def Obligations.LdfinBlockBytes : Prop :=
  ∀ (tgt : RomIndex) (s t : State) (b : Memory) (p e : Nat) (l : Byte) (m : Word),
    s.buf = some b → s.ptr = some p → s.endp = some e → s.lenb = some l →
    exec (.ldfin tgt) s = .next t → t.m = some m →
    m.extractLsb' 56 8 = l ∧
    (∀ i, i < e - p → readByte b (p + i) = some (m.extractLsb' (8 * i) 8)) ∧
    (∀ i, e - p ≤ i → i ≤ 6 → m.extractLsb' (8 * i) 8 = 0)

/-- R58, R61: LDBLK and LDFIN of a run read only the message range: what they load into M and PTR is the
same for every buffer with the same bytes there. -/
def Obligations.LoaderReadsOnlyMessage : Prop :=
  ∀ (tgt : RomIndex) (s t : State) (b c : Memory) (p e : Nat),
    s.buf = some b → s.ptr = some p → s.endp = some e → e ≤ b.len → e ≤ c.len →
    (∀ a, p ≤ a → a < e → readByte c a = readByte b a) →
    (p + 8 ≤ e → exec (.ldblk tgt) s = .next t →
      exec (.ldblk tgt) { s with buf := some c } = .next { t with buf := some c }) ∧
    (exec (.ldfin tgt) s = .next t →
      exec (.ldfin tgt) { s with buf := some c } = .next { t with buf := some c })

/-! ## The datapath -/

/-- R136: LOADV makes the working state from the engine state. -/
def Obligations.LoadvCreatesWorkingState : Prop :=
  ∀ (tgt : RomIndex) (s : State) (b0 b1 : Word), s.base0 = some b0 → s.base1 = some b1 →
    exec (.loadv tgt) s = .next { s with
      v0 := some b0, v1 := some b1
      v2 := some (0x1F160A001E161714 ^^^ b0), v3 := some (0x100A160317100A1E ^^^ b1), upc := tgt }

/-- R137: INJ3. -/
def Obligations.Inj3InjectsBlock : Prop :=
  ∀ (tgt : RomIndex) (s : State) (x m : Word), s.v3 = some x → s.m = some m →
    exec (.inj3 tgt) s = .next { s with v3 := some (x ^^^ m), upc := tgt }

/-- R138 with R135's closed form: ROUND applies the round function to the four words. -/
def Obligations.RoundAppliesSipRound : Prop :=
  ∀ (tgt : RomIndex) (s : State) (a0 a1 a2 a3 : Word),
    s.v0 = some a0 → s.v1 = some a1 → s.v2 = some a2 → s.v3 = some a3 →
    let b0 := a0 + a1
    let b2 := a2 + a3
    let c1 := a1.rotateLeft 13 ^^^ b0
    let c3 := a3.rotateLeft 16 ^^^ b2
    let d0 := b0.rotateLeft 32 + c3
    let d2 := b2 + c1
    exec (.round tgt) s = .next { s with
      v0 := some d0, v1 := some (c1.rotateLeft 17 ^^^ d2)
      v2 := some (d2.rotateLeft 32), v3 := some (c3.rotateLeft 21 ^^^ d0), upc := tgt }

/-- R139: INJ0. -/
def Obligations.Inj0InjectsBlock : Prop :=
  ∀ (tgt : RomIndex) (s : State) (x m : Word), s.v0 = some x → s.m = some m →
    exec (.inj0 tgt) s = .next { s with v0 := some (x ^^^ m), upc := tgt }

/-- R140: MARK. -/
def Obligations.MarkSeparatesFinalization : Prop :=
  ∀ (tgt : RomIndex) (s : State) (x : Word), s.v2 = some x →
    exec (.mark tgt) s = .next { s with v2 := some (x ^^^ 0x00000000000000ff), upc := tgt }

/-- R141: FOLD answers with the tag and releases the working state, the block and the buffer. -/
def Obligations.FoldAnswersTag : Prop :=
  ∀ (tgt : RomIndex) (s : State) (a0 a1 a2 a3 : Word),
    s.v0 = some a0 → s.v1 = some a1 → s.v2 = some a2 → s.v3 = some a3 →
    exec (.fold tgt) s = .next { s with
      responses := s.responses ++ [.okTag ((a0 ^^^ a1) ^^^ (a2 ^^^ a3))]
      v0 := none, v1 := none, v2 := none, v3 := none, m := none, buf := none, upc := tgt }

/-! ## Where the model stops -/

/-- R28: reading a register that holds no value is a fault, in every micro-operation and in KEYREAD. -/
def Obligations.ReadingNoValueFaults : Prop :=
  ∀ (tgt : RomIndex) (s : State),
    (s.base0 = none ∨ s.base1 = none → ∃ r, exec (.loadv tgt) s = .fault (.noValue r)) ∧
    (s.ptr = none ∨ s.endp = none → ∃ r, exec (.test tgt) s = .fault (.noValue r)) ∧
    (s.buf = none ∨ s.ptr = none → ∃ r, exec (.ldblk tgt) s = .fault (.noValue r)) ∧
    (s.buf = none ∨ s.ptr = none ∨ s.endp = none ∨ s.lenb = none →
      ∃ r, exec (.ldfin tgt) s = .fault (.noValue r)) ∧
    (s.v3 = none ∨ s.m = none → ∃ r, exec (.inj3 tgt) s = .fault (.noValue r)) ∧
    (s.v0 = none ∨ s.m = none → ∃ r, exec (.inj0 tgt) s = .fault (.noValue r)) ∧
    (s.v2 = none → exec (.mark tgt) s = .fault (.noValue .v2)) ∧
    (s.v0 = none ∨ s.v1 = none ∨ s.v2 = none ∨ s.v3 = none →
      (∃ r, exec (.round tgt) s = .fault (.noValue r)) ∧
      ∃ r, exec (.fold tgt) s = .fault (.noValue r)) ∧
    (∀ (q : ReqFields) (data : Memory), s.upc = 0 → s.cfg.hasKeyread = true → s.keyvalid = true →
      s.base0 = none ∨ s.base1 = none → ∃ r, exec (.keyread q data) s = .fault (.noValue r))

/-- The model's other stops (log entries 6, 10 and 16): a read past the buffer by LDBLK or LDFIN, LDFIN
outside its precondition, TEST at the last ROM index, a request whose `blen` is not the number of bytes,
and a descriptor with too many bits. -/
def Obligations.StopsOutsideTheRules : Prop :=
  (∀ (tgt : RomIndex) (s : State) (b : Memory) (p : Nat), s.buf = some b → s.ptr = some p →
    b.len < p + 8 → ∃ a, exec (.ldblk tgt) s = .fault (.outsideBuffer a) ∧ readByte b a = none) ∧
  (∀ (tgt : RomIndex) (s : State) (b : Memory) (p e : Nat) (l : Byte), s.buf = some b →
    s.ptr = some p → s.endp = some e → s.lenb = some l → e < p ∨ p + 7 < e →
    exec (.ldfin tgt) s = .fault .trailingLength) ∧
  (∀ (tgt : RomIndex) (s : State) (b : Memory) (p e : Nat) (l : Byte), s.buf = some b →
    s.ptr = some p → s.endp = some e → s.lenb = some l → p ≤ e → e - p ≤ 7 → b.len < e →
    ∃ a, exec (.ldfin tgt) s = .fault (.outsideBuffer a) ∧ readByte b a = none) ∧
  (∀ (tgt : RomIndex) (s : State) (p e : Nat), s.ptr = some p → s.endp = some e → p + 8 ≤ e →
    s.upc.val = 18 → exec (.test tgt) s = .fault .pastRom) ∧
  (∀ (q : ReqFields) (data : Memory) (s : State), s.upc = 0 → q.pres = true → data.len ≠ q.blen →
    exec (.keyload q data) s = .refused .lengthMismatch ∧
    exec (.hash q data) s = .refused .lengthMismatch ∧
    exec (.hashr q data) s = .refused .lengthMismatch) ∧
  (∀ (tgt : RomIndex) (s : State) (o : Offer) (rest : List Offer), s.upc = 0 → s.Accepts o rest →
    2 ^ s.cfg.reqBits ≤ o.desc → exec (.idle tgt) s = .refused .malformedDescriptor)

/-! ## Frames (R35) -/

/-- LOADV, ROUND, INJ3, INJ0 and MARK write the working state and UPC only; INJ3 only `v[3]` of it, INJ0
only `v[0]`, MARK only `v[2]`. -/
def Obligations.DatapathFrame : Prop :=
  ∀ (tgt : RomIndex) (i : Instr) (s t : State),
    (i = .loadv tgt ∨ i = .round tgt ∨ i = .inj3 tgt ∨ i = .inj0 tgt ∨ i = .mark tgt) →
    exec i s = .next t →
    SameEngine s t ∧ SameRange s t ∧ SameOffers s t ∧ SameMemory s t ∧
    t.responses = s.responses ∧ t.m = s.m ∧ t.upc = tgt ∧
    (i = .inj3 tgt → t.v0 = s.v0 ∧ t.v1 = s.v1 ∧ t.v2 = s.v2) ∧
    (i = .inj0 tgt → t.v1 = s.v1 ∧ t.v2 = s.v2 ∧ t.v3 = s.v3) ∧
    (i = .mark tgt → t.v0 = s.v0 ∧ t.v1 = s.v1 ∧ t.v3 = s.v3)

/-- TEST writes UPC only; LDBLK and LDFIN write M, PTR and UPC only. -/
def Obligations.LoaderFrame : Prop :=
  ∀ (tgt : RomIndex) (i : Instr) (s t : State),
    (i = .test tgt ∨ i = .ldblk tgt ∨ i = .ldfin tgt) → exec i s = .next t →
    SameEngine s t ∧ SameWorking s t ∧ SameOffers s t ∧ SameMemory s t ∧
    t.responses = s.responses ∧ t.endp = s.endp ∧ t.lenb = s.lenb ∧
    (i = .test tgt → t.ptr = s.ptr ∧ t.m = s.m)

/-- FOLD writes the working state, M, BUF and UPC and emits one response; what it releases reads as
nothing, and nothing else changes. -/
def Obligations.FoldFrame : Prop :=
  ∀ (tgt : RomIndex) (s t : State), exec (.fold tgt) s = .next t →
    SameEngine s t ∧ SameRange s t ∧ SameOffers s t ∧ t.upc = tgt ∧
    (∃ tag, t.responses = s.responses ++ [.okTag tag]) ∧
    t.v0 = none ∧ t.v1 = none ∧ t.v2 = none ∧ t.v3 = none ∧ t.m = none ∧ t.buf = none

/-- The four commands leave the working state, M and the offers alone; KEYLOAD writes the engine state
only, KEYREAD nothing, HASH and HASHR the range registers, BUF (the buffer handed over, or none) and UPC
only; an answered error leaves every register. -/
def Obligations.CommandFrame : Prop :=
  ∀ (q : ReqFields) (data : Memory) (i : Instr) (s t : State),
    (i = .keyload q data ∨ i = .keyread q data ∨ i = .hash q data ∨ i = .hashr q data) →
    exec i s = .next t →
    SameWorking s t ∧ SameOffers s t ∧ t.cfg = s.cfg ∧ t.m = s.m ∧
    (i = .keyload q data → SameRange s t ∧ SameMemory s t ∧ t.upc = s.upc) ∧
    (i = .keyread q data → SameEngine s t ∧ SameRange s t ∧ SameMemory s t ∧ t.upc = s.upc) ∧
    (i = .hash q data ∨ i = .hashr q data → SameEngine s t ∧
      ((SameRange s t ∧ SameMemory s t ∧ t.upc = s.upc) ∨
       (t.buf = some data ∧ t.responses = s.responses ∧ t.upc = 1))) ∧
    ((∃ e, t.responses = s.responses ++ [.error e]) →
      SameEngine s t ∧ SameRange s t ∧ SameMemory s t ∧ t.upc = s.upc)

/-- IDLE leaves the working state and M alone. Either it changes nothing, or it takes one request off the
port; then either it answers it and leaves the range registers, BUF and UPC, and the engine state too
unless the answer is OK, or it answers nothing, attaches that request's buffer, goes to `tgt` and leaves the
engine state. With UPC not 0 it changes nothing, whatever is on offer: that is the model's choice (log
entry 13). -/
def Obligations.IdleFrame : Prop :=
  ∀ (tgt : RomIndex) (s t : State), exec (.idle tgt) s = .next t →
    SameWorking s t ∧ t.m = s.m ∧ t.cfg = s.cfg ∧
    (t = s ∨ (s.upc = 0 ∧ ∃ k o, s.offers[k]? = some o ∧
      t.offers = s.offers.eraseIdx k ∧ t.accepted = s.accepted + 1 ∧
      ((SameRange s t ∧ SameMemory s t ∧ t.upc = s.upc ∧
          ∃ r, t.responses = s.responses ++ [r] ∧ (r ≠ .ok → SameEngine s t)) ∨
        (SameEngine s t ∧ t.upc = tgt ∧ t.responses = s.responses ∧ t.buf = some o.data))))

/-! ## The whole machine -/

/-- R53: no step writes memory: the attached buffer stays as it is, is released by FOLD, or is the one
handed over with a request on offer. -/
def Obligations.NoStepWritesMemory : Prop :=
  ∀ s t : State, step s = .next t →
    SameMemory s t ∨ (s.upc.val = 18 ∧ t.buf = none) ∨
    (s.upc = 0 ∧ ∃ o ∈ s.offers, t.buf = some o.data)

/-- R32: every step keeps the state invariants. -/
def Obligations.StepKeepsInv : Prop :=
  ∀ s t : State, Inv s → step s = .next t → Inv t

/-- R32: so do the acts of the outside, a request put on offer and reset (log entries 2 and 9). -/
def Obligations.HostMovesKeepInv : Prop :=
  ∀ (h : HostMove) (s : State), Inv s → Inv (hostMove h s)

/-- Every step keeps the canonical form of every buffer the state holds (log entry 11). -/
def Obligations.StepKeepsCanonical : Prop :=
  Canonical State.reset ∧ ∀ s t : State, Canonical s → step s = .next t → Canonical t

/-- Canonical buffers of the same length that read the same everywhere are equal data (log entry 11). -/
def Obligations.CanonicalBuffersEqual : Prop :=
  ∀ b c : Memory, memWf b = true → memWf c = true → b.len = c.len →
    (∀ a, readByte b a = readByte c a) → b = c

/-- R176, R203: from a state that meets the invariants a run never stops, and with honest hosts neither
does the idle engine. -/
def Obligations.RunNeverStops : Prop :=
  (∀ s : State, Inv s → s.upc ≠ 0 → ∃ t, step s = .next t) ∧
  (∀ s : State, Inv s → s.OffersHonest → ∃ t, step s = .next t ∧ t.OffersHonest)

/-- R70, R200: every accepted request gets exactly one response: the responses grow at the end only, and
accepted requests stay as many as responses and open runs together (the model's counters, log entries 3
and 4). -/
def Obligations.OneResponsePerRequest : Prop :=
  ∀ s t : State, step s = .next t →
    (∃ new, t.responses = s.responses ++ new ∧ new.length ≤ 1) ∧
    t.responses.length + runsOpen t + s.accepted = s.responses.length + runsOpen s + t.accepted

/-- R21, R91: the engine state changes only at the IDLE step that accepts a KEYLOAD of 16 bytes, answered
with OK, and then holds that key's words. -/
def Obligations.KeyChangesOnlyByKeyload : Prop :=
  ∀ s t : State, step s = .next t →
    SameEngine s t ∨
    (s.upc = 0 ∧ t.upc = 0 ∧ t.responses = s.responses ++ [.ok] ∧
      ∃ o ∈ s.offers, o.desc % 256 = 0x01 ∧ o.data.len = 16 ∧ t.keyvalid = true ∧
        t.base0 = some (0x736f6d6570736575 ^^^ le ((memBytes o.data).take 8)) ∧
        t.base1 = some (0x646f72616e646f6d ^^^ le (((memBytes o.data).drop 8).take 8)))

/-- R115: the only paths through the micro-program. -/
def Obligations.MicroProgramPaths : Prop :=
  ∀ s t : State, step s = .next t → romEdge s.upc t.upc

/-- R117: each step of a run brings its end nearer by one step. -/
def Obligations.StepsLeftCountDown : Prop :=
  ∀ (s t : State) (p e p' e' : Nat), Inv s → s.upc ≠ 0 → step s = .next t →
    s.ptr = some p → s.endp = some e → t.ptr = some p' → t.endp = some e' →
    stepsLeft t.upc (e' - p') + 1 = stepsLeft s.upc (e - p)

/-! ## The function computed -/

/-- R154, R117, R160: a HASH run takes exactly `14 + 6*floor(n/8)` steps, busy and without a response before
the last of them, and answers SipHash24 of the key in force and of its own request's whole buffer, whatever
else is on offer; it leaves what R116 says. -/
def Obligations.HashRunAnswersTag : Prop :=
  ∀ (s : State) (o : Offer) (rest : List Offer) (key : List Byte),
    s.upc = 0 → s.keyvalid = true → key.length = 16 →
    s.base0 = some (0x736f6d6570736575 ^^^ le (key.take 8)) →
    s.base1 = some (0x646f72616e646f6d ^^^ le (key.drop 8)) →
    s.Accepts o rest → o.Honest s.cfg → o.desc % 256 = 0x03 →
    (reqFields s.cfg o.desc).pres = true →
    Host.Core.run Sys2Proof.core (14 + 6 * (o.data.len / 8)) s = .next { s with
      offers := rest, accepted := s.accepted + 1
      responses := s.responses ++ [.okTag (sipHash24 key (memBytes o.data))]
      ptr := some o.data.len, endp := some o.data.len
      lenb := some (BitVec.ofNat 8 (o.data.len % 256))
      v0 := none, v1 := none, v2 := none, v3 := none, m := none, buf := none, upc := 0 } ∧
    ∀ j, 0 < j → j < 14 + 6 * (o.data.len / 8) → ∃ u : State,
      Host.Core.run Sys2Proof.core j s = .next u ∧ u.upc ≠ 0 ∧ u.responses = s.responses

/-- R154, R117, R129, R160: a HASHR run takes exactly `14 + 6*floor(cnt/8)` steps, busy and without a
response before the last of them, and answers SipHash24 of the key in force and of the bytes of its own
request's range, whatever else is on offer. -/
def Obligations.HashrRunAnswersTag : Prop :=
  ∀ (s : State) (o : Offer) (rest : List Offer) (key : List Byte) (off cnt : Nat),
    s.upc = 0 → s.keyvalid = true → key.length = 16 →
    s.base0 = some (0x736f6d6570736575 ^^^ le (key.take 8)) →
    s.base1 = some (0x646f72616e646f6d ^^^ le (key.drop 8)) →
    s.Accepts o rest → o.Honest s.cfg → o.desc % 256 = 0x04 →
    (reqFields s.cfg o.desc).pres = true →
    (reqFields s.cfg o.desc).off = off → (reqFields s.cfg o.desc).cnt = cnt →
    off + cnt ≤ o.data.len →
    Host.Core.run Sys2Proof.core (14 + 6 * (cnt / 8)) s = .next { s with
      offers := rest, accepted := s.accepted + 1
      responses := s.responses ++
        [.okTag (sipHash24 key (((memBytes o.data).drop off).take cnt))]
      ptr := some (off + cnt), endp := some (off + cnt)
      lenb := some (BitVec.ofNat 8 (cnt % 256))
      v0 := none, v1 := none, v2 := none, v3 := none, m := none, buf := none, upc := 0 } ∧
    ∀ j, 0 < j → j < 14 + 6 * (cnt / 8) → ∃ u : State,
      Host.Core.run Sys2Proof.core j s = .next u ∧ u.upc ≠ 0 ∧ u.responses = s.responses

/-- R128: the block sequence determines the message. -/
def Obligations.BlocksDetermineMessage : Prop :=
  ∀ m m' : List Byte, blocks m = blocks m' → m = m'
end

