-- ==== Sys2Proof/Laws/Decode.lean ====
section
/-! SUPPORT. Laws/Decode.lean: when the decoder of request descriptors answers which command. -/

namespace Sys2Proof

/-- A decoded command has the opcode the map gives it (R74). -/
theorem decodeOp_op {p : Params} {n : Nat} {c : Cmd} (h : decodeOp p n = some c) : n = c.op := by
  unfold decodeOp at h
  by_cases h1 : n = 1
  · subst h1; simp at h; subst h; rfl
  · rw [if_neg h1] at h
    by_cases h2 : n = 2
    · subst h2
      cases hk : p.hasKeyread <;> simp [hk] at h
      subst h; rfl
    · rw [if_neg h2] at h
      by_cases h3 : n = 3
      · subst h3; simp at h; subst h; rfl
      · rw [if_neg h3] at h
        by_cases h4 : n = 4
        · subst h4; simp at h; subst h; rfl
        · simp [h4] at h

/-- The implemented opcodes decode to their commands (R74, R93). -/
theorem decodeOp_of_op {p : Params} {c : Cmd} (h : c = .keyread → p.hasKeyread = true) :
    decodeOp p c.op = some c := by
  cases c <;> simp_all [decodeOp, Cmd.op]

theorem reqOp_eq (desc : Nat) : reqOp desc = desc % 256 := by
  simp [reqOp, bitField]

/-- A descriptor of the right length decodes by its low eight bits (R74). -/
theorem decodeCmd_of_lt {p : Params} {desc : Nat} (h : desc < 2 ^ p.reqBits) :
    decodeCmd p desc =
      match decodeOp p (desc % 256) with
      | some c => .ok c
      | none => .error (.illegalOpcode (desc % 256)) := by
  cases hd : decodeOp p (desc % 256) <;> simp [decodeCmd, h, reqOp_eq, hd]

/-- A descriptor that decodes to a command has its length and its opcode. -/
theorem decodeCmd_ok {p : Params} {desc : Nat} {c : Cmd} (h : decodeCmd p desc = .ok c) :
    desc < 2 ^ p.reqBits ∧ desc % 256 = c.op := by
  by_cases hl : desc < 2 ^ p.reqBits
  · rw [decodeCmd_of_lt hl] at h
    cases hd : decodeOp p (desc % 256) with
    | none => rw [hd] at h; cases h
    | some c' =>
      rw [hd] at h
      cases h
      exact ⟨hl, decodeOp_op hd⟩
  · simp [decodeCmd, hl] at h

/-- A field's value is below its range (R72): the attached buffer's length. -/
theorem reqFields_blen_lt (p : Params) (desc : Nat) : (reqFields p desc).blen < 2 ^ (p.idxw - 1) :=
  Nat.mod_lt _ (Nat.two_pow_pos _)

end Sys2Proof
end

