-- ==== Sys2Proof/Laws/Ops.lean ====
section
/-! SUPPORT. Laws/Ops.lean: for each shared operation, when it answers a next state. -/

namespace Sys2Proof.Machine

theorem raiseError_eq (e : ErrorKind) (s : State) :
    raiseError e s = .next (s.respond (.error e)) := rfl

theorem raiseError_eq_next {e : ErrorKind} {s t : State} :
    raiseError e s = .next t ↔ t = s.respond (.error e) := by
  simp [raiseError, eq_comm]

@[simp] theorem withValue_some {α : Type} (r : Reg) (a : α) (k : α → Out) :
    withValue r (some a) k = k a := rfl

@[simp] theorem withValue_none {α : Type} (r : Reg) (k : α → Out) :
    withValue r none k = .fault (.noValue r) := rfl

/-- A register read goes on exactly with a value. -/
theorem withValue_eq_next {α : Type} {r : Reg} {x : Option α} {k : α → Out} {t : State} :
    withValue r x k = .next t ↔ ∃ a, x = some a ∧ k a = .next t := by
  cases x <;> simp

/-- The working state is read exactly where all four words hold values. -/
theorem withV_eq_next {s t : State} {k : Quad → Out} :
    withV s k = .next t ↔
      ∃ q : Quad, s.v0 = some q.v0 ∧ s.v1 = some q.v1 ∧ s.v2 = some q.v2 ∧ s.v3 = some q.v3 ∧
        k q = .next t := by
  simp only [withV, withValue_eq_next]
  constructor
  · rintro ⟨a0, h0, a1, h1, a2, h2, a3, h3, hk⟩
    exact ⟨⟨a0, a1, a2, a3⟩, h0, h1, h2, h3, hk⟩
  · rintro ⟨⟨a0, a1, a2, a3⟩, h0, h1, h2, h3, hk⟩
    exact ⟨a0, h0, a1, h1, a2, h2, a3, h3, hk⟩

theorem withV_of_values {s : State} {q : Quad} {k : Quad → Out} (h0 : s.v0 = some q.v0)
    (h1 : s.v1 = some q.v1) (h2 : s.v2 = some q.v2) (h3 : s.v3 = some q.v3) : withV s k = k q := by
  simp [withV, h0, h1, h2, h3]

/-- A read of a buffer goes on exactly where the buffer has the range (R52). -/
theorem withRead_eq_next {b : Memory} {a n : Nat} {k : List Byte → Out} {t : State} :
    withRead b a n k = .next t ↔ ∃ bs, memRead b a n = some bs ∧ k bs = .next t := by
  unfold withRead
  cases memRead b a n <;> simp

theorem withRead_of_read {b : Memory} {a n : Nat} {bs : List Byte} {k : List Byte → Out}
    (h : memRead b a n = some bs) : withRead b a n k = k bs := by
  simp [withRead, h]

theorem memRead_of_le {b : Memory} {a n : Nat} (h : a + n ≤ b.len) :
    memRead b a n = some ((List.range n).map fun i => cellAt b.cells (a + i)) := by
  simp [memRead, h]

theorem memRead_eq_some {b : Memory} {a n : Nat} {bs : List Byte} :
    memRead b a n = some bs ↔
      a + n ≤ b.len ∧ (List.range n).map (fun i => cellAt b.cells (a + i)) = bs := by
  unfold memRead
  split <;> rename_i h <;> simp [h]

theorem memRead_length {b : Memory} {a n : Nat} {bs : List Byte} (h : memRead b a n = some bs) :
    bs.length = n := by
  obtain ⟨-, rfl⟩ := memRead_eq_some.1 h
  simp

@[simp] theorem memBytes_length (b : Memory) : (memBytes b).length = b.len := by
  simp [memBytes]

theorem readByte_eq_getElem? (b : Memory) (a : Nat) : readByte b a = (memBytes b)[a]? := by
  simp only [readByte, memBytes]
  split <;> simp_all

/-- A read is a slice of the buffer's bytes (R52). -/
theorem memRead_eq_slice {b : Memory} {a n : Nat} (h : a + n ≤ b.len) :
    memRead b a n = some (((memBytes b).drop a).take n) := by
  rw [memRead_of_le h, Option.some_inj]
  apply List.ext_getElem
  · simp; omega
  · intro i h1 h2
    simp [memBytes]

/-- When the operand assembly of a request's buffer goes on, it does so with the buffer or with none. -/
theorem withBuffer_eq_next {q : ReqFields} {data : Memory} {k : Option Memory → Out} {t : State} :
    withBuffer q data k = .next t ↔
      (q.pres = true ∧ data.len = q.blen ∧ k (some data) = .next t) ∨
      (q.pres = false ∧ k none = .next t) := by
  unfold withBuffer
  cases q.pres <;> simp
  split <;> simp_all

theorem withBuffer_present {q : ReqFields} {data : Memory} {k : Option Memory → Out}
    (hp : q.pres = true) (h : data.len = q.blen) : withBuffer q data k = k (some data) := by
  simp [withBuffer, hp, h]

theorem withBuffer_absent {q : ReqFields} {data : Memory} {k : Option Memory → Out}
    (hp : q.pres = false) : withBuffer q data k = k none := by
  simp [withBuffer, hp]

theorem lengthByte_toNat (n : Nat) : (lengthByte n).toNat = n % 256 := by
  simp [lengthByte]

theorem blockRemains_iff (e p : Nat) : blockRemains e p ↔ p + 8 ≤ e := by
  unfold blockRemains
  omega

end Sys2Proof.Machine
end

