-- ==== Sys2Proof/Laws/State.lean ====
section
/-! SUPPORT. Laws/State.lean: what each register transfer does to each field of the state. -/

namespace Sys2Proof.Machine

variable (s : State)


/-! `State.goto` -/

@[simp] theorem State.goto_cfg (t : RomIndex) : (s.goto t).cfg = s.cfg := rfl
@[simp] theorem State.goto_base0 (t : RomIndex) : (s.goto t).base0 = s.base0 := rfl
@[simp] theorem State.goto_base1 (t : RomIndex) : (s.goto t).base1 = s.base1 := rfl
@[simp] theorem State.goto_keyvalid (t : RomIndex) : (s.goto t).keyvalid = s.keyvalid := rfl
@[simp] theorem State.goto_v0 (t : RomIndex) : (s.goto t).v0 = s.v0 := rfl
@[simp] theorem State.goto_v1 (t : RomIndex) : (s.goto t).v1 = s.v1 := rfl
@[simp] theorem State.goto_v2 (t : RomIndex) : (s.goto t).v2 = s.v2 := rfl
@[simp] theorem State.goto_v3 (t : RomIndex) : (s.goto t).v3 = s.v3 := rfl
@[simp] theorem State.goto_m (t : RomIndex) : (s.goto t).m = s.m := rfl
@[simp] theorem State.goto_ptr (t : RomIndex) : (s.goto t).ptr = s.ptr := rfl
@[simp] theorem State.goto_endp (t : RomIndex) : (s.goto t).endp = s.endp := rfl
@[simp] theorem State.goto_lenb (t : RomIndex) : (s.goto t).lenb = s.lenb := rfl
@[simp] theorem State.goto_buf (t : RomIndex) : (s.goto t).buf = s.buf := rfl
@[simp] theorem State.goto_upc (t : RomIndex) : (s.goto t).upc = t := rfl
@[simp] theorem State.goto_offers (t : RomIndex) : (s.goto t).offers = s.offers := rfl
@[simp] theorem State.goto_responses (t : RomIndex) : (s.goto t).responses = s.responses := rfl
@[simp] theorem State.goto_accepted (t : RomIndex) : (s.goto t).accepted = s.accepted := rfl

/-! `State.respond` -/

@[simp] theorem State.respond_cfg (r : Response) : (s.respond r).cfg = s.cfg := rfl
@[simp] theorem State.respond_base0 (r : Response) : (s.respond r).base0 = s.base0 := rfl
@[simp] theorem State.respond_base1 (r : Response) : (s.respond r).base1 = s.base1 := rfl
@[simp] theorem State.respond_keyvalid (r : Response) : (s.respond r).keyvalid = s.keyvalid := rfl
@[simp] theorem State.respond_v0 (r : Response) : (s.respond r).v0 = s.v0 := rfl
@[simp] theorem State.respond_v1 (r : Response) : (s.respond r).v1 = s.v1 := rfl
@[simp] theorem State.respond_v2 (r : Response) : (s.respond r).v2 = s.v2 := rfl
@[simp] theorem State.respond_v3 (r : Response) : (s.respond r).v3 = s.v3 := rfl
@[simp] theorem State.respond_m (r : Response) : (s.respond r).m = s.m := rfl
@[simp] theorem State.respond_ptr (r : Response) : (s.respond r).ptr = s.ptr := rfl
@[simp] theorem State.respond_endp (r : Response) : (s.respond r).endp = s.endp := rfl
@[simp] theorem State.respond_lenb (r : Response) : (s.respond r).lenb = s.lenb := rfl
@[simp] theorem State.respond_buf (r : Response) : (s.respond r).buf = s.buf := rfl
@[simp] theorem State.respond_upc (r : Response) : (s.respond r).upc = s.upc := rfl
@[simp] theorem State.respond_offers (r : Response) : (s.respond r).offers = s.offers := rfl
@[simp] theorem State.respond_responses (r : Response) : (s.respond r).responses = s.responses ++ [r] := rfl
@[simp] theorem State.respond_accepted (r : Response) : (s.respond r).accepted = s.accepted := rfl

/-! `State.setV` -/

@[simp] theorem State.setV_cfg (q : Quad) : (s.setV q).cfg = s.cfg := rfl
@[simp] theorem State.setV_base0 (q : Quad) : (s.setV q).base0 = s.base0 := rfl
@[simp] theorem State.setV_base1 (q : Quad) : (s.setV q).base1 = s.base1 := rfl
@[simp] theorem State.setV_keyvalid (q : Quad) : (s.setV q).keyvalid = s.keyvalid := rfl
@[simp] theorem State.setV_v0 (q : Quad) : (s.setV q).v0 = some q.v0 := rfl
@[simp] theorem State.setV_v1 (q : Quad) : (s.setV q).v1 = some q.v1 := rfl
@[simp] theorem State.setV_v2 (q : Quad) : (s.setV q).v2 = some q.v2 := rfl
@[simp] theorem State.setV_v3 (q : Quad) : (s.setV q).v3 = some q.v3 := rfl
@[simp] theorem State.setV_m (q : Quad) : (s.setV q).m = s.m := rfl
@[simp] theorem State.setV_ptr (q : Quad) : (s.setV q).ptr = s.ptr := rfl
@[simp] theorem State.setV_endp (q : Quad) : (s.setV q).endp = s.endp := rfl
@[simp] theorem State.setV_lenb (q : Quad) : (s.setV q).lenb = s.lenb := rfl
@[simp] theorem State.setV_buf (q : Quad) : (s.setV q).buf = s.buf := rfl
@[simp] theorem State.setV_upc (q : Quad) : (s.setV q).upc = s.upc := rfl
@[simp] theorem State.setV_offers (q : Quad) : (s.setV q).offers = s.offers := rfl
@[simp] theorem State.setV_responses (q : Quad) : (s.setV q).responses = s.responses := rfl
@[simp] theorem State.setV_accepted (q : Quad) : (s.setV q).accepted = s.accepted := rfl

/-! `State.setV0` -/

@[simp] theorem State.setV0_cfg (x : Word) : (s.setV0 x).cfg = s.cfg := rfl
@[simp] theorem State.setV0_base0 (x : Word) : (s.setV0 x).base0 = s.base0 := rfl
@[simp] theorem State.setV0_base1 (x : Word) : (s.setV0 x).base1 = s.base1 := rfl
@[simp] theorem State.setV0_keyvalid (x : Word) : (s.setV0 x).keyvalid = s.keyvalid := rfl
@[simp] theorem State.setV0_v0 (x : Word) : (s.setV0 x).v0 = some x := rfl
@[simp] theorem State.setV0_v1 (x : Word) : (s.setV0 x).v1 = s.v1 := rfl
@[simp] theorem State.setV0_v2 (x : Word) : (s.setV0 x).v2 = s.v2 := rfl
@[simp] theorem State.setV0_v3 (x : Word) : (s.setV0 x).v3 = s.v3 := rfl
@[simp] theorem State.setV0_m (x : Word) : (s.setV0 x).m = s.m := rfl
@[simp] theorem State.setV0_ptr (x : Word) : (s.setV0 x).ptr = s.ptr := rfl
@[simp] theorem State.setV0_endp (x : Word) : (s.setV0 x).endp = s.endp := rfl
@[simp] theorem State.setV0_lenb (x : Word) : (s.setV0 x).lenb = s.lenb := rfl
@[simp] theorem State.setV0_buf (x : Word) : (s.setV0 x).buf = s.buf := rfl
@[simp] theorem State.setV0_upc (x : Word) : (s.setV0 x).upc = s.upc := rfl
@[simp] theorem State.setV0_offers (x : Word) : (s.setV0 x).offers = s.offers := rfl
@[simp] theorem State.setV0_responses (x : Word) : (s.setV0 x).responses = s.responses := rfl
@[simp] theorem State.setV0_accepted (x : Word) : (s.setV0 x).accepted = s.accepted := rfl

/-! `State.setV2` -/

@[simp] theorem State.setV2_cfg (x : Word) : (s.setV2 x).cfg = s.cfg := rfl
@[simp] theorem State.setV2_base0 (x : Word) : (s.setV2 x).base0 = s.base0 := rfl
@[simp] theorem State.setV2_base1 (x : Word) : (s.setV2 x).base1 = s.base1 := rfl
@[simp] theorem State.setV2_keyvalid (x : Word) : (s.setV2 x).keyvalid = s.keyvalid := rfl
@[simp] theorem State.setV2_v0 (x : Word) : (s.setV2 x).v0 = s.v0 := rfl
@[simp] theorem State.setV2_v1 (x : Word) : (s.setV2 x).v1 = s.v1 := rfl
@[simp] theorem State.setV2_v2 (x : Word) : (s.setV2 x).v2 = some x := rfl
@[simp] theorem State.setV2_v3 (x : Word) : (s.setV2 x).v3 = s.v3 := rfl
@[simp] theorem State.setV2_m (x : Word) : (s.setV2 x).m = s.m := rfl
@[simp] theorem State.setV2_ptr (x : Word) : (s.setV2 x).ptr = s.ptr := rfl
@[simp] theorem State.setV2_endp (x : Word) : (s.setV2 x).endp = s.endp := rfl
@[simp] theorem State.setV2_lenb (x : Word) : (s.setV2 x).lenb = s.lenb := rfl
@[simp] theorem State.setV2_buf (x : Word) : (s.setV2 x).buf = s.buf := rfl
@[simp] theorem State.setV2_upc (x : Word) : (s.setV2 x).upc = s.upc := rfl
@[simp] theorem State.setV2_offers (x : Word) : (s.setV2 x).offers = s.offers := rfl
@[simp] theorem State.setV2_responses (x : Word) : (s.setV2 x).responses = s.responses := rfl
@[simp] theorem State.setV2_accepted (x : Word) : (s.setV2 x).accepted = s.accepted := rfl

/-! `State.setV3` -/

@[simp] theorem State.setV3_cfg (x : Word) : (s.setV3 x).cfg = s.cfg := rfl
@[simp] theorem State.setV3_base0 (x : Word) : (s.setV3 x).base0 = s.base0 := rfl
@[simp] theorem State.setV3_base1 (x : Word) : (s.setV3 x).base1 = s.base1 := rfl
@[simp] theorem State.setV3_keyvalid (x : Word) : (s.setV3 x).keyvalid = s.keyvalid := rfl
@[simp] theorem State.setV3_v0 (x : Word) : (s.setV3 x).v0 = s.v0 := rfl
@[simp] theorem State.setV3_v1 (x : Word) : (s.setV3 x).v1 = s.v1 := rfl
@[simp] theorem State.setV3_v2 (x : Word) : (s.setV3 x).v2 = s.v2 := rfl
@[simp] theorem State.setV3_v3 (x : Word) : (s.setV3 x).v3 = some x := rfl
@[simp] theorem State.setV3_m (x : Word) : (s.setV3 x).m = s.m := rfl
@[simp] theorem State.setV3_ptr (x : Word) : (s.setV3 x).ptr = s.ptr := rfl
@[simp] theorem State.setV3_endp (x : Word) : (s.setV3 x).endp = s.endp := rfl
@[simp] theorem State.setV3_lenb (x : Word) : (s.setV3 x).lenb = s.lenb := rfl
@[simp] theorem State.setV3_buf (x : Word) : (s.setV3 x).buf = s.buf := rfl
@[simp] theorem State.setV3_upc (x : Word) : (s.setV3 x).upc = s.upc := rfl
@[simp] theorem State.setV3_offers (x : Word) : (s.setV3 x).offers = s.offers := rfl
@[simp] theorem State.setV3_responses (x : Word) : (s.setV3 x).responses = s.responses := rfl
@[simp] theorem State.setV3_accepted (x : Word) : (s.setV3 x).accepted = s.accepted := rfl

/-! `State.setM` -/

@[simp] theorem State.setM_cfg (x : Word) : (s.setM x).cfg = s.cfg := rfl
@[simp] theorem State.setM_base0 (x : Word) : (s.setM x).base0 = s.base0 := rfl
@[simp] theorem State.setM_base1 (x : Word) : (s.setM x).base1 = s.base1 := rfl
@[simp] theorem State.setM_keyvalid (x : Word) : (s.setM x).keyvalid = s.keyvalid := rfl
@[simp] theorem State.setM_v0 (x : Word) : (s.setM x).v0 = s.v0 := rfl
@[simp] theorem State.setM_v1 (x : Word) : (s.setM x).v1 = s.v1 := rfl
@[simp] theorem State.setM_v2 (x : Word) : (s.setM x).v2 = s.v2 := rfl
@[simp] theorem State.setM_v3 (x : Word) : (s.setM x).v3 = s.v3 := rfl
@[simp] theorem State.setM_m (x : Word) : (s.setM x).m = some x := rfl
@[simp] theorem State.setM_ptr (x : Word) : (s.setM x).ptr = s.ptr := rfl
@[simp] theorem State.setM_endp (x : Word) : (s.setM x).endp = s.endp := rfl
@[simp] theorem State.setM_lenb (x : Word) : (s.setM x).lenb = s.lenb := rfl
@[simp] theorem State.setM_buf (x : Word) : (s.setM x).buf = s.buf := rfl
@[simp] theorem State.setM_upc (x : Word) : (s.setM x).upc = s.upc := rfl
@[simp] theorem State.setM_offers (x : Word) : (s.setM x).offers = s.offers := rfl
@[simp] theorem State.setM_responses (x : Word) : (s.setM x).responses = s.responses := rfl
@[simp] theorem State.setM_accepted (x : Word) : (s.setM x).accepted = s.accepted := rfl

/-! `State.setPtr` -/

@[simp] theorem State.setPtr_cfg (p : Nat) : (s.setPtr p).cfg = s.cfg := rfl
@[simp] theorem State.setPtr_base0 (p : Nat) : (s.setPtr p).base0 = s.base0 := rfl
@[simp] theorem State.setPtr_base1 (p : Nat) : (s.setPtr p).base1 = s.base1 := rfl
@[simp] theorem State.setPtr_keyvalid (p : Nat) : (s.setPtr p).keyvalid = s.keyvalid := rfl
@[simp] theorem State.setPtr_v0 (p : Nat) : (s.setPtr p).v0 = s.v0 := rfl
@[simp] theorem State.setPtr_v1 (p : Nat) : (s.setPtr p).v1 = s.v1 := rfl
@[simp] theorem State.setPtr_v2 (p : Nat) : (s.setPtr p).v2 = s.v2 := rfl
@[simp] theorem State.setPtr_v3 (p : Nat) : (s.setPtr p).v3 = s.v3 := rfl
@[simp] theorem State.setPtr_m (p : Nat) : (s.setPtr p).m = s.m := rfl
@[simp] theorem State.setPtr_ptr (p : Nat) : (s.setPtr p).ptr = some p := rfl
@[simp] theorem State.setPtr_endp (p : Nat) : (s.setPtr p).endp = s.endp := rfl
@[simp] theorem State.setPtr_lenb (p : Nat) : (s.setPtr p).lenb = s.lenb := rfl
@[simp] theorem State.setPtr_buf (p : Nat) : (s.setPtr p).buf = s.buf := rfl
@[simp] theorem State.setPtr_upc (p : Nat) : (s.setPtr p).upc = s.upc := rfl
@[simp] theorem State.setPtr_offers (p : Nat) : (s.setPtr p).offers = s.offers := rfl
@[simp] theorem State.setPtr_responses (p : Nat) : (s.setPtr p).responses = s.responses := rfl
@[simp] theorem State.setPtr_accepted (p : Nat) : (s.setPtr p).accepted = s.accepted := rfl

/-! `State.setKey` -/

@[simp] theorem State.setKey_cfg (b0 b1 : Word) : (s.setKey b0 b1).cfg = s.cfg := rfl
@[simp] theorem State.setKey_base0 (b0 b1 : Word) : (s.setKey b0 b1).base0 = some b0 := rfl
@[simp] theorem State.setKey_base1 (b0 b1 : Word) : (s.setKey b0 b1).base1 = some b1 := rfl
@[simp] theorem State.setKey_keyvalid (b0 b1 : Word) : (s.setKey b0 b1).keyvalid = true := rfl
@[simp] theorem State.setKey_v0 (b0 b1 : Word) : (s.setKey b0 b1).v0 = s.v0 := rfl
@[simp] theorem State.setKey_v1 (b0 b1 : Word) : (s.setKey b0 b1).v1 = s.v1 := rfl
@[simp] theorem State.setKey_v2 (b0 b1 : Word) : (s.setKey b0 b1).v2 = s.v2 := rfl
@[simp] theorem State.setKey_v3 (b0 b1 : Word) : (s.setKey b0 b1).v3 = s.v3 := rfl
@[simp] theorem State.setKey_m (b0 b1 : Word) : (s.setKey b0 b1).m = s.m := rfl
@[simp] theorem State.setKey_ptr (b0 b1 : Word) : (s.setKey b0 b1).ptr = s.ptr := rfl
@[simp] theorem State.setKey_endp (b0 b1 : Word) : (s.setKey b0 b1).endp = s.endp := rfl
@[simp] theorem State.setKey_lenb (b0 b1 : Word) : (s.setKey b0 b1).lenb = s.lenb := rfl
@[simp] theorem State.setKey_buf (b0 b1 : Word) : (s.setKey b0 b1).buf = s.buf := rfl
@[simp] theorem State.setKey_upc (b0 b1 : Word) : (s.setKey b0 b1).upc = s.upc := rfl
@[simp] theorem State.setKey_offers (b0 b1 : Word) : (s.setKey b0 b1).offers = s.offers := rfl
@[simp] theorem State.setKey_responses (b0 b1 : Word) : (s.setKey b0 b1).responses = s.responses := rfl
@[simp] theorem State.setKey_accepted (b0 b1 : Word) : (s.setKey b0 b1).accepted = s.accepted := rfl

/-! `State.attach` -/

@[simp] theorem State.attach_cfg (b : Memory) (p e : Nat) (l : Byte) : (s.attach b p e l).cfg = s.cfg := rfl
@[simp] theorem State.attach_base0 (b : Memory) (p e : Nat) (l : Byte) : (s.attach b p e l).base0 = s.base0 := rfl
@[simp] theorem State.attach_base1 (b : Memory) (p e : Nat) (l : Byte) : (s.attach b p e l).base1 = s.base1 := rfl
@[simp] theorem State.attach_keyvalid (b : Memory) (p e : Nat) (l : Byte) : (s.attach b p e l).keyvalid = s.keyvalid := rfl
@[simp] theorem State.attach_v0 (b : Memory) (p e : Nat) (l : Byte) : (s.attach b p e l).v0 = s.v0 := rfl
@[simp] theorem State.attach_v1 (b : Memory) (p e : Nat) (l : Byte) : (s.attach b p e l).v1 = s.v1 := rfl
@[simp] theorem State.attach_v2 (b : Memory) (p e : Nat) (l : Byte) : (s.attach b p e l).v2 = s.v2 := rfl
@[simp] theorem State.attach_v3 (b : Memory) (p e : Nat) (l : Byte) : (s.attach b p e l).v3 = s.v3 := rfl
@[simp] theorem State.attach_m (b : Memory) (p e : Nat) (l : Byte) : (s.attach b p e l).m = s.m := rfl
@[simp] theorem State.attach_ptr (b : Memory) (p e : Nat) (l : Byte) : (s.attach b p e l).ptr = some p := rfl
@[simp] theorem State.attach_endp (b : Memory) (p e : Nat) (l : Byte) : (s.attach b p e l).endp = some e := rfl
@[simp] theorem State.attach_lenb (b : Memory) (p e : Nat) (l : Byte) : (s.attach b p e l).lenb = some l := rfl
@[simp] theorem State.attach_buf (b : Memory) (p e : Nat) (l : Byte) : (s.attach b p e l).buf = some b := rfl
@[simp] theorem State.attach_upc (b : Memory) (p e : Nat) (l : Byte) : (s.attach b p e l).upc = s.upc := rfl
@[simp] theorem State.attach_offers (b : Memory) (p e : Nat) (l : Byte) : (s.attach b p e l).offers = s.offers := rfl
@[simp] theorem State.attach_responses (b : Memory) (p e : Nat) (l : Byte) : (s.attach b p e l).responses = s.responses := rfl
@[simp] theorem State.attach_accepted (b : Memory) (p e : Nat) (l : Byte) : (s.attach b p e l).accepted = s.accepted := rfl

/-! `State.release` -/

@[simp] theorem State.release_cfg : (s.release).cfg = s.cfg := rfl
@[simp] theorem State.release_base0 : (s.release).base0 = s.base0 := rfl
@[simp] theorem State.release_base1 : (s.release).base1 = s.base1 := rfl
@[simp] theorem State.release_keyvalid : (s.release).keyvalid = s.keyvalid := rfl
@[simp] theorem State.release_v0 : (s.release).v0 = none := rfl
@[simp] theorem State.release_v1 : (s.release).v1 = none := rfl
@[simp] theorem State.release_v2 : (s.release).v2 = none := rfl
@[simp] theorem State.release_v3 : (s.release).v3 = none := rfl
@[simp] theorem State.release_m : (s.release).m = none := rfl
@[simp] theorem State.release_ptr : (s.release).ptr = s.ptr := rfl
@[simp] theorem State.release_endp : (s.release).endp = s.endp := rfl
@[simp] theorem State.release_lenb : (s.release).lenb = s.lenb := rfl
@[simp] theorem State.release_buf : (s.release).buf = none := rfl
@[simp] theorem State.release_upc : (s.release).upc = s.upc := rfl
@[simp] theorem State.release_offers : (s.release).offers = s.offers := rfl
@[simp] theorem State.release_responses : (s.release).responses = s.responses := rfl
@[simp] theorem State.release_accepted : (s.release).accepted = s.accepted := rfl

/-! `State.accept` -/

@[simp] theorem State.accept_cfg (rest : List Offer) : (s.accept rest).cfg = s.cfg := rfl
@[simp] theorem State.accept_base0 (rest : List Offer) : (s.accept rest).base0 = s.base0 := rfl
@[simp] theorem State.accept_base1 (rest : List Offer) : (s.accept rest).base1 = s.base1 := rfl
@[simp] theorem State.accept_keyvalid (rest : List Offer) : (s.accept rest).keyvalid = s.keyvalid := rfl
@[simp] theorem State.accept_v0 (rest : List Offer) : (s.accept rest).v0 = s.v0 := rfl
@[simp] theorem State.accept_v1 (rest : List Offer) : (s.accept rest).v1 = s.v1 := rfl
@[simp] theorem State.accept_v2 (rest : List Offer) : (s.accept rest).v2 = s.v2 := rfl
@[simp] theorem State.accept_v3 (rest : List Offer) : (s.accept rest).v3 = s.v3 := rfl
@[simp] theorem State.accept_m (rest : List Offer) : (s.accept rest).m = s.m := rfl
@[simp] theorem State.accept_ptr (rest : List Offer) : (s.accept rest).ptr = s.ptr := rfl
@[simp] theorem State.accept_endp (rest : List Offer) : (s.accept rest).endp = s.endp := rfl
@[simp] theorem State.accept_lenb (rest : List Offer) : (s.accept rest).lenb = s.lenb := rfl
@[simp] theorem State.accept_buf (rest : List Offer) : (s.accept rest).buf = s.buf := rfl
@[simp] theorem State.accept_upc (rest : List Offer) : (s.accept rest).upc = s.upc := rfl
@[simp] theorem State.accept_offers (rest : List Offer) : (s.accept rest).offers = rest := rfl
@[simp] theorem State.accept_responses (rest : List Offer) : (s.accept rest).responses = s.responses := rfl
@[simp] theorem State.accept_accepted (rest : List Offer) : (s.accept rest).accepted = s.accepted + 1 := rfl

/-! `offerRequest` -/

@[simp] theorem offerRequest_cfg (o : Offer) : (offerRequest o s).cfg = s.cfg := rfl
@[simp] theorem offerRequest_base0 (o : Offer) : (offerRequest o s).base0 = s.base0 := rfl
@[simp] theorem offerRequest_base1 (o : Offer) : (offerRequest o s).base1 = s.base1 := rfl
@[simp] theorem offerRequest_keyvalid (o : Offer) : (offerRequest o s).keyvalid = s.keyvalid := rfl
@[simp] theorem offerRequest_v0 (o : Offer) : (offerRequest o s).v0 = s.v0 := rfl
@[simp] theorem offerRequest_v1 (o : Offer) : (offerRequest o s).v1 = s.v1 := rfl
@[simp] theorem offerRequest_v2 (o : Offer) : (offerRequest o s).v2 = s.v2 := rfl
@[simp] theorem offerRequest_v3 (o : Offer) : (offerRequest o s).v3 = s.v3 := rfl
@[simp] theorem offerRequest_m (o : Offer) : (offerRequest o s).m = s.m := rfl
@[simp] theorem offerRequest_ptr (o : Offer) : (offerRequest o s).ptr = s.ptr := rfl
@[simp] theorem offerRequest_endp (o : Offer) : (offerRequest o s).endp = s.endp := rfl
@[simp] theorem offerRequest_lenb (o : Offer) : (offerRequest o s).lenb = s.lenb := rfl
@[simp] theorem offerRequest_buf (o : Offer) : (offerRequest o s).buf = s.buf := rfl
@[simp] theorem offerRequest_upc (o : Offer) : (offerRequest o s).upc = s.upc := rfl
@[simp] theorem offerRequest_offers (o : Offer) : (offerRequest o s).offers = s.offers ++ [o] := rfl
@[simp] theorem offerRequest_responses (o : Offer) : (offerRequest o s).responses = s.responses := rfl
@[simp] theorem offerRequest_accepted (o : Offer) : (offerRequest o s).accepted = s.accepted := rfl

/-! `resetEvent` -/

@[simp] theorem resetEvent_cfg : (resetEvent s).cfg = s.cfg := rfl
@[simp] theorem resetEvent_base0 : (resetEvent s).base0 = none := rfl
@[simp] theorem resetEvent_base1 : (resetEvent s).base1 = none := rfl
@[simp] theorem resetEvent_keyvalid : (resetEvent s).keyvalid = false := rfl
@[simp] theorem resetEvent_v0 : (resetEvent s).v0 = none := rfl
@[simp] theorem resetEvent_v1 : (resetEvent s).v1 = none := rfl
@[simp] theorem resetEvent_v2 : (resetEvent s).v2 = none := rfl
@[simp] theorem resetEvent_v3 : (resetEvent s).v3 = none := rfl
@[simp] theorem resetEvent_m : (resetEvent s).m = none := rfl
@[simp] theorem resetEvent_ptr : (resetEvent s).ptr = none := rfl
@[simp] theorem resetEvent_endp : (resetEvent s).endp = none := rfl
@[simp] theorem resetEvent_lenb : (resetEvent s).lenb = none := rfl
@[simp] theorem resetEvent_buf : (resetEvent s).buf = none := rfl
@[simp] theorem resetEvent_upc : (resetEvent s).upc = 0 := rfl
@[simp] theorem resetEvent_offers : (resetEvent s).offers = s.offers := rfl
@[simp] theorem resetEvent_responses : (resetEvent s).responses = s.responses := rfl
@[simp] theorem resetEvent_accepted : (resetEvent s).accepted = s.accepted := rfl

end Sys2Proof.Machine
end

