-- ==== Sys2Proof/Laws/Exec.lean ====
section
/-! SUPPORT. Laws/Exec.lean: for each meaning, exactly when it answers a next state and which. -/

namespace Sys2Proof.Machine

variable {s t : State} {tgt : RomIndex}

theorem execLoadv_next : execLoadv tgt s = .next t ↔
    ∃ b0 b1, s.base0 = some b0 ∧ s.base1 = some b1 ∧ t = (s.setV (initV b0 b1)).goto tgt := by
  simp [execLoadv, withValue_eq_next, eq_comm (a := t)]

theorem execInj3_next : execInj3 tgt s = .next t ↔
    ∃ a m, s.v3 = some a ∧ s.m = some m ∧ t = (s.setV3 (a ^^^ m)).goto tgt := by
  simp [execInj3, withValue_eq_next, eq_comm (a := t)]

theorem execInj0_next : execInj0 tgt s = .next t ↔
    ∃ a m, s.v0 = some a ∧ s.m = some m ∧ t = (s.setV0 (a ^^^ m)).goto tgt := by
  simp [execInj0, withValue_eq_next, eq_comm (a := t)]

theorem execMark_next : execMark tgt s = .next t ↔
    ∃ a, s.v2 = some a ∧ t = (s.setV2 (a ^^^ finMark)).goto tgt := by
  simp [execMark, withValue_eq_next, eq_comm (a := t)]

theorem execRound_next : execRound tgt s = .next t ↔
    ∃ q : Quad, s.v0 = some q.v0 ∧ s.v1 = some q.v1 ∧ s.v2 = some q.v2 ∧ s.v3 = some q.v3 ∧
      t = (s.setV (sipRound q)).goto tgt := by
  simp [execRound, withV_eq_next, eq_comm (a := t)]

theorem execFold_next : execFold tgt s = .next t ↔
    ∃ q : Quad, s.v0 = some q.v0 ∧ s.v1 = some q.v1 ∧ s.v2 = some q.v2 ∧ s.v3 = some q.v3 ∧
      t = ((s.respond (.okTag (foldV q))).release).goto tgt := by
  simp [execFold, withV_eq_next, eq_comm (a := t)]

theorem execLdblk_next : execLdblk tgt s = .next t ↔
    ∃ b p bs, s.buf = some b ∧ s.ptr = some p ∧ memRead b p 8 = some bs ∧
      t = ((s.setM (le bs)).setPtr (p + 8)).goto tgt := by
  simp [execLdblk, withValue_eq_next, withRead_eq_next, eq_comm (a := t)]

theorem execLdfin_next : execLdfin tgt s = .next t ↔
    ∃ b p e l bs, s.buf = some b ∧ s.ptr = some p ∧ s.endp = some e ∧ s.lenb = some l ∧
      p ≤ e ∧ e - p ≤ 7 ∧ memRead b p (e - p) = some bs ∧
      t = ((s.setM ((l.zeroExtend 64 <<< 56) ||| le bs)).setPtr e).goto tgt := by
  simp only [execLdfin, withValue_eq_next]
  constructor
  · rintro ⟨b, hb, p, hp, e, he, l, hl, h⟩
    split at h
    · rename_i hr
      obtain ⟨bs, hbs, hk⟩ := withRead_eq_next.1 h
      injection hk with hk
      exact ⟨b, p, e, l, bs, hb, hp, he, hl, hr.1, hr.2, hbs, hk.symm⟩
    · cases h
  · rintro ⟨b, p, e, l, bs, hb, hp, he, hl, h1, h2, hbs, rfl⟩
    refine ⟨b, hb, p, hp, e, he, l, hl, ?_⟩
    rw [if_pos ⟨h1, h2⟩]
    exact withRead_eq_next.2 ⟨bs, hbs, rfl⟩

theorem gotoNext_next : gotoNext s = .next t ↔
    ∃ h : s.upc.val + 1 < 19, t = s.goto ⟨s.upc.val + 1, h⟩ := by
  unfold gotoNext
  split <;> rename_i h
  · simp [eq_comm (a := t), h]
  · exact ⟨fun h' => (by cases h'), fun ⟨h', _⟩ => absurd h' h⟩

theorem execTest_next : execTest tgt s = .next t ↔
    ∃ e p, s.endp = some e ∧ s.ptr = some p ∧
      ((p + 8 ≤ e ∧ ∃ h : s.upc.val + 1 < 19, t = s.goto ⟨s.upc.val + 1, h⟩) ∨
        (e < p + 8 ∧ t = s.goto tgt)) := by
  simp only [execTest, withValue_eq_next]
  constructor
  · rintro ⟨e, he, p, hp, h⟩
    refine ⟨e, p, he, hp, ?_⟩
    split at h <;> rename_i hr <;> rw [blockRemains_iff] at hr
    · exact .inl ⟨hr, gotoNext_next.1 h⟩
    · injection h with h
      exact .inr ⟨by omega, h.symm⟩
  · rintro ⟨e, p, he, hp, h⟩
    refine ⟨e, he, p, hp, ?_⟩
    rcases h with ⟨hr, h⟩ | ⟨hr, rfl⟩
    · rw [if_pos ((blockRemains_iff e p).2 hr)]
      exact gotoNext_next.2 h
    · rw [if_neg (by rw [blockRemains_iff]; omega)]

theorem keyloadCommand_next {q : ReqFields} {data : Memory} : keyloadCommand q data s = .next t ↔
    (q.pres = true ∧ data.len = q.blen ∧ q.blen = 16 ∧
      t = (s.setKey (keyC0 ^^^ le ((memBytes data).take 8))
        (keyC1 ^^^ le (((memBytes data).drop 8).take 8))).respond .ok) ∨
    ((q.pres = false ∨ (data.len = q.blen ∧ q.blen ≠ 16)) ∧
      t = s.respond (.error .invalidKeyLength)) := by
  simp only [keyloadCommand, withBuffer_eq_next, raiseError_eq_next]
  constructor
  · rintro (⟨hp, hl, h⟩ | ⟨hp, h⟩)
    · split at h
      · exact .inr ⟨.inr ⟨hl, by omega⟩, raiseError_eq_next.1 h⟩
      · rw [withRead_of_read (memRead_eq_slice (by omega)),
          withRead_of_read (memRead_eq_slice (by omega))] at h
        injection h with h
        exact .inl ⟨hp, hl, by omega, h.symm⟩
    · exact .inr ⟨.inl hp, h⟩
  · rintro (⟨hp, hl, h16, rfl⟩ | ⟨hp | ⟨hl, h16⟩, rfl⟩)
    · refine .inl ⟨hp, hl, ?_⟩
      rw [if_neg (by omega), withRead_of_read (memRead_eq_slice (by omega)),
        withRead_of_read (memRead_eq_slice (by omega))]
      rfl
    · exact .inr ⟨hp, rfl⟩
    · cases hp : q.pres
      · exact .inr ⟨rfl, rfl⟩
      · refine .inl ⟨rfl, hl, ?_⟩
        rw [if_pos (by omega)]
        rfl

theorem keyreadCommand_next : keyreadCommand s = .next t ↔
    (s.cfg.hasKeyread = false ∧ t = s.respond (.error .illegalCommand)) ∨
    (s.cfg.hasKeyread = true ∧ s.keyvalid = false ∧ t = s.respond (.error .noKey)) ∨
    (s.cfg.hasKeyread = true ∧ s.keyvalid = true ∧ ∃ b0 b1, s.base0 = some b0 ∧ s.base1 = some b1 ∧
      t = s.respond (.okKey (bytesLe64 (b0 ^^^ keyC0) ++ bytesLe64 (b1 ^^^ keyC1)))) := by
  unfold keyreadCommand
  cases s.cfg.hasKeyread <;> cases s.keyvalid <;>
    simp [raiseError_eq_next, withValue_eq_next, eq_comm (a := t)]

theorem hashCommand_next {q : ReqFields} {data : Memory} : hashCommand tgt q data s = .next t ↔
    (q.pres = true → data.len = q.blen) ∧
    ((s.keyvalid = false ∧ t = s.respond (.error .noKey)) ∨
     (s.keyvalid = true ∧ q.pres = false ∧ t = s.respond (.error .nullMessage)) ∨
     (s.keyvalid = true ∧ q.pres = true ∧
      t = (s.attach data 0 data.len (lengthByte data.len)).goto tgt)) := by
  simp only [hashCommand, withBuffer_eq_next]
  cases s.keyvalid <;> cases q.pres <;> simp [raiseError_eq_next, eq_comm (a := t)]

theorem hashrCommand_next {q : ReqFields} {data : Memory} : hashrCommand tgt q data s = .next t ↔
    (q.pres = true → data.len = q.blen) ∧
    ((s.keyvalid = false ∧ t = s.respond (.error .noKey)) ∨
     (s.keyvalid = true ∧ q.pres = false ∧ t = s.respond (.error .nullMessage)) ∨
     (s.keyvalid = true ∧ q.pres = true ∧ (q.off < 0 ∨ q.cnt < 0 ∨ q.off + q.cnt > data.len) ∧
      t = s.respond (.error .invalidRange)) ∨
     (s.keyvalid = true ∧ q.pres = true ∧ ¬ (q.off < 0 ∨ q.cnt < 0 ∨ q.off + q.cnt > data.len) ∧
      t = (s.attach data q.off.toNat (q.off + q.cnt).toNat (lengthByte q.cnt.toNat)).goto tgt)) := by
  simp only [hashrCommand, withBuffer_eq_next]
  by_cases hr : q.off < 0 ∨ q.cnt < 0 ∨ q.off + q.cnt > data.len
  · cases s.keyvalid <;> cases q.pres <;> simp [raiseError_eq_next, hr, eq_comm (a := t)]
  · cases s.keyvalid <;> cases q.pres <;> simp [raiseError_eq_next, hr, eq_comm (a := t)]

/-- Which request is taken: one of those on offer, the others staying (R112, R183). -/
theorem pickOffer_some {n : Nat} {os rest : List Offer} {o : Offer}
    (h : pickOffer n os = some (o, rest)) : ∃ k, os[k]? = some o ∧ rest = os.eraseIdx k := by
  unfold pickOffer at h
  split at h
  · cases h
  · cases h
    exact ⟨0, rfl, rfl⟩
  · split at h
    · rename_i hx
      cases h
      exact ⟨_, hx, rfl⟩
    · cases h

theorem pickOffer_none {n : Nat} {os : List Offer} : pickOffer n os = none ↔ os = [] := by
  unfold pickOffer
  split
  · simp
  · simp
  · rename_i o os' _
    have hlt : n % (o :: os').length < (o :: os').length := Nat.mod_lt _ (by simp)
    rw [List.getElem?_eq_getElem hlt]
    simp

/-- An accepted request gets a next state by one of the four commands or the IllegalCommand answer. -/
theorem handleOffer_next {o : Offer} : handleOffer tgt o s = .next t ↔
    (decodeCmd s.cfg o.desc = .ok .keyload ∧
      keyloadCommand (reqFields s.cfg o.desc) o.data s = .next t) ∨
    (decodeCmd s.cfg o.desc = .ok .keyread ∧ keyreadCommand s = .next t) ∨
    (decodeCmd s.cfg o.desc = .ok .hash ∧
      hashCommand tgt (reqFields s.cfg o.desc) o.data s = .next t) ∨
    (decodeCmd s.cfg o.desc = .ok .hashr ∧
      hashrCommand tgt (reqFields s.cfg o.desc) o.data s = .next t) ∨
    ((∃ op, decodeCmd s.cfg o.desc = .error (.illegalOpcode op)) ∧
      t = s.respond (.error .illegalCommand)) := by
  unfold handleOffer
  split <;> rename_i h <;> simp [h, raiseError_eq_next]

/-- What an IDLE step can do (R112). -/
theorem execIdle_next : execIdle tgt s = .next t ↔
    (s.upc ≠ 0 ∧ t = s) ∨ (s.upc = 0 ∧ s.offers = [] ∧ t = s) ∨
    (s.upc = 0 ∧ ∃ o rest, pickOffer (Config.arbiter s.accepted) s.offers = some (o, rest) ∧
      handleOffer tgt o (s.accept rest) = .next t) := by
  unfold execIdle
  split
  · rename_i h
    cases hp : pickOffer (Config.arbiter s.accepted) s.offers with
    | none => simp [h, pickOffer_none.1 hp, eq_comm (a := t)]
    | some x =>
      have hne : s.offers ≠ [] := fun he => by simp [he, pickOffer] at hp
      simp only [h, hne, ne_eq, not_true_eq_false, false_and, and_false, true_and, false_or,
        Option.some.injEq]
      constructor
      · exact fun hh => ⟨x.1, x.2, rfl, hh⟩
      · rintro ⟨o, rest, rfl, hh⟩
        exact hh
  · rename_i h
    simp [h, eq_comm (a := t)]

/-- With one request on offer IDLE takes that one (R112). -/
theorem State.accepts_singleton {o : Offer} (h : s.offers = [o]) : s.Accepts o [] := by
  simp [State.Accepts, h, pickOffer]

/-- Some request is taken where any is on offer (R112). -/
theorem State.exists_accepts (h : s.offers ≠ []) : ∃ o rest, s.Accepts o rest := by
  cases hp : pickOffer (Config.arbiter s.accepted) s.offers with
  | none => exact absurd (pickOffer_none.1 hp) h
  | some x => exact ⟨x.1, x.2, hp⟩

/-- The request taken is one of those on offer, and the others stay (R112). -/
theorem State.Accepts.eraseIdx {o : Offer} {rest : List Offer} (h : s.Accepts o rest) :
    ∃ k, s.offers[k]? = some o ∧ rest = s.offers.eraseIdx k := pickOffer_some h

/-- IDLE handles the request it takes (R112). -/
theorem execIdle_of_accepts {o : Offer} {rest : List Offer} (hu : s.upc = 0) (h : s.Accepts o rest) :
    execIdle tgt s = handleOffer tgt o (s.accept rest) := by
  unfold State.Accepts at h
  simp [execIdle, hu, h]

end Sys2Proof.Machine
end

