-- ==== Sys2Proof/Laws/Memory.lean ====
section
/-! SUPPORT. Laws/Memory.lean: the buffers' canonical form (log entry 11) and what keeps it. -/

namespace Sys2Proof.Machine

theorem cellsWf_cons {lo hi : Nat} {c : Host.Cell} {cs : List Host.Cell} :
    cellsWf lo hi (c :: cs) = true ↔
      lo ≤ c.1 ∧ c.1 < hi ∧ c.2 ≠ 0 ∧ cellsWf (c.1 + 1) hi cs = true := by
  simp [cellsWf, and_assoc]

theorem cellsWf_mono {lo lo' hi : Nat} (h : lo ≤ lo') {cs : List Host.Cell} :
    cellsWf lo' hi cs = true → cellsWf lo hi cs = true := by
  cases cs with
  | nil => simp [cellsWf]
  | cons c cs =>
    simp only [cellsWf_cons]
    rintro ⟨h1, h2, h3, h4⟩
    exact ⟨by omega, h2, h3, h4⟩

/-- An index below the range a canonical list covers holds 0. -/
theorem cellAt_below {lo hi a : Nat} (h : a < lo) {cs : List Host.Cell} :
    cellsWf lo hi cs = true → cellAt cs a = 0 := by
  induction cs generalizing lo with
  | nil => simp [cellAt]
  | cons c cs ih =>
    simp only [cellsWf_cons]
    rintro ⟨h1, -, -, h4⟩
    have hne : c.1 ≠ a := by omega
    simp only [cellAt, if_neg hne]
    exact ih (by omega) h4

theorem cellsFrom_wf (a : Nat) (bs : List Byte) : cellsWf a (a + bs.length) (cellsFrom a bs) = true := by
  induction bs generalizing a with
  | nil => simp [cellsFrom, cellsWf]
  | cons b bs ih =>
    have h := ih (a + 1)
    rw [show a + 1 + bs.length = a + (b :: bs).length by simp; omega] at h
    unfold cellsFrom
    split
    · exact cellsWf_mono (by omega) h
    · rename_i hb
      exact cellsWf_cons.2 ⟨Nat.le_refl _, by simp, hb, h⟩

/-- What a host hands over is in the canonical form. -/
theorem memOfBytes_wf (bs : List Byte) : memWf (memOfBytes bs) = true := by
  simpa [memWf, memOfBytes] using cellsFrom_wf 0 bs

theorem zeros_wf (n : Nat) : memWf (Memory.zeros n) = true := by
  simp [memWf, Memory.zeros, cellsWf]

theorem cellAt_cellsFrom (a i : Nat) (bs : List Byte) :
    cellAt (cellsFrom a bs) (a + i) = bs.getD i 0 := by
  induction bs generalizing a i with
  | nil => simp [cellsFrom, cellAt]
  | cons b bs ih =>
    cases i with
    | zero =>
      unfold cellsFrom
      split
      · rename_i hb
        simpa [hb] using cellAt_below (Nat.lt_succ_self a) (cellsFrom_wf (a + 1) bs)
      · simp [cellAt]
    | succ i =>
      have h := ih (a + 1) i
      rw [show a + 1 + i = a + (i + 1) by omega] at h
      unfold cellsFrom
      split
      · simpa using h
      · have hne : ¬ a = a + (i + 1) := by omega
        simpa [cellAt, hne] using h

/-- A buffer made of a byte sequence holds that sequence. -/
theorem memBytes_memOfBytes (bs : List Byte) : memBytes (memOfBytes bs) = bs := by
  apply List.ext_getElem
  · simp [memOfBytes]
  · intro i h1 h2
    have h := cellAt_cellsFrom 0 i bs
    simp only [Nat.zero_add] at h
    simp [memBytes, memOfBytes, h, List.getElem?_eq_getElem h2]

/-! What keeps the canonical form. No operation writes a byte (R53); a buffer is attached or released. -/

theorem attach_canonical {s : State} (h : Canonical s) {b : Memory} (hb : memWf b = true) (p e : Nat)
    (l : Byte) : Canonical (s.attach b p e l) := by
  refine ⟨fun c hc => ?_, by simpa using h.2⟩
  simp only [State.attach_buf, Option.some.injEq] at hc
  exact hc ▸ hb

theorem release_canonical {s : State} (h : Canonical s) : Canonical s.release :=
  ⟨fun b hb => by simp at hb, by simpa using h.2⟩

theorem accept_canonical {s : State} (h : Canonical s) {rest : List Offer}
    (hr : ∀ o ∈ rest, o ∈ s.offers) : Canonical (s.accept rest) :=
  ⟨by simpa using h.1, fun o ho => h.2 o (hr o (by simpa using ho))⟩

theorem offerRequest_canonical {s : State} (h : Canonical s) {o : Offer} (ho : memWf o.data = true) :
    Canonical (offerRequest o s) := by
  refine ⟨by simpa using h.1, fun x hx => ?_⟩
  simp only [offerRequest_offers, List.mem_append, List.mem_singleton] at hx
  rcases hx with hx | rfl
  · exact h.2 x hx
  · exact ho

/-- An operation that leaves the buffers alone keeps their form. -/
theorem canonical_of_same {s t : State} (hb : t.buf = s.buf) (ho : t.offers = s.offers)
    (h : Canonical s) : Canonical t :=
  ⟨by rw [hb]; exact h.1, by rw [ho]; exact h.2⟩

end Sys2Proof.Machine
end

