-- ==== Sys2Proof/Laws/PerInstr.lean ====
section
/-! SUPPORT. Laws/PerInstr.lean: a fact about every instruction as syntax, one lemma per constructor: the
encoding of a well-formed instruction fits in its format's length (R70, R71, R78). -/

namespace Sys2Proof

/-- Two fields side by side fit in the product of their ranges. -/
theorem pack_lt {a m b n : Nat} (ha : a < m) (hb : b < n) : a + m * b < m * n :=
  calc a + m * b < m + m * b := by omega
    _ = m * (b + 1) := by rw [Nat.mul_add, Nat.mul_one, Nat.add_comm]
    _ ≤ m * n := Nat.mul_le_mul_left m hb

theorem twos_lt (n : Nat) (x : Int) : twos n x < 2 ^ n := by
  have hpos : (0 : Int) < (2 ^ n : Nat) := by exact_mod_cast Nat.two_pow_pos n
  have h0 := Int.emod_nonneg x (Int.ne_of_gt hpos)
  have h1 := Int.emod_lt_of_pos x hpos
  unfold twos
  omega

/-- A request descriptor of fields that fit has `8 + 3*IDXW` bits. -/
theorem encodeReq_lt {p : Params} {op : Nat} {q : ReqFields} (hp : p.Wf) (hop : op < 2 ^ 8)
    (hb : q.blen < 2 ^ (p.idxw - 1)) : encodeReq p op q < 2 ^ p.reqBits := by
  have hpres : (if q.pres then 1 else 0) < 2 := by split <;> omega
  have h := pack_lt hop (pack_lt hb (pack_lt hpres (pack_lt (twos_lt p.idxw q.off) (twos_lt p.idxw q.cnt))))
  have hw : p.reqBits = 8 + ((p.idxw - 1) + (1 + (p.idxw + p.idxw))) := by
    unfold Params.reqBits
    have : 8 ≤ p.idxw := hp
    omega
  rw [hw, Nat.pow_add, Nat.pow_add, Nat.pow_add, Nat.pow_add, Nat.pow_one]
  exact h

theorem encodeUop_lt {uop : Nat} (h : uop < 16) (tgt : RomIndex) : encodeUop uop tgt < 2 ^ 9 := by
  unfold encodeUop
  omega

namespace Laws.EncodeFits

/-- The encoding of the instruction fits in its format, for every implementation that carries it. -/
def Statement (i : Instr) : Prop := ∀ p : Params, p.Wf → i.WellFormed p → (encode p i).fits p

theorem keyload (q : ReqFields) (data : Memory) : Statement (.keyload q data) :=
  fun _ hp h => encodeReq_lt hp (by decide) h.1.1

theorem keyread (q : ReqFields) (data : Memory) : Statement (.keyread q data) :=
  fun _ hp h => encodeReq_lt hp (by decide) h.1.1

theorem hash (q : ReqFields) (data : Memory) : Statement (.hash q data) :=
  fun _ hp h => encodeReq_lt hp (by decide) h.1.1

theorem hashr (q : ReqFields) (data : Memory) : Statement (.hashr q data) :=
  fun _ hp h => encodeReq_lt hp (by decide) h.1.1

theorem idle (tgt : RomIndex) : Statement (.idle tgt) := fun _ _ _ => encodeUop_lt (by decide) tgt

theorem loadv (tgt : RomIndex) : Statement (.loadv tgt) := fun _ _ _ => encodeUop_lt (by decide) tgt

theorem test (tgt : RomIndex) : Statement (.test tgt) := fun _ _ _ => encodeUop_lt (by decide) tgt

theorem ldblk (tgt : RomIndex) : Statement (.ldblk tgt) := fun _ _ _ => encodeUop_lt (by decide) tgt

theorem ldfin (tgt : RomIndex) : Statement (.ldfin tgt) := fun _ _ _ => encodeUop_lt (by decide) tgt

theorem inj3 (tgt : RomIndex) : Statement (.inj3 tgt) := fun _ _ _ => encodeUop_lt (by decide) tgt

theorem round (tgt : RomIndex) : Statement (.round tgt) := fun _ _ _ => encodeUop_lt (by decide) tgt

theorem inj0 (tgt : RomIndex) : Statement (.inj0 tgt) := fun _ _ _ => encodeUop_lt (by decide) tgt

theorem mark (tgt : RomIndex) : Statement (.mark tgt) := fun _ _ _ => encodeUop_lt (by decide) tgt

theorem fold (tgt : RomIndex) : Statement (.fold tgt) := fun _ _ _ => encodeUop_lt (by decide) tgt

end Laws.EncodeFits

end Sys2Proof
end

