-- ==== Sys2Proof/Machine/Text.lean ====
section
/-! DEFINITION. Machine/Text.lean: the spec's textual notation of requests, outcomes and
micro-instructions (R83, R84). It is a notation of its examples, no property of the hardware (D30). -/

namespace Sys2Proof.Machine

/-- A hexadecimal digit. -/
def hexDigit (n : Nat) : Char := "0123456789abcdef".toList.getD n '0'

/-- The low `n` hexadecimal digits of a number, most significant first. -/
def hexDigits (n x : Nat) : List Char :=
  (List.range n).map fun i => hexDigit (x / 16 ^ (n - 1 - i) % 16)

/-- Hexadecimal pairs in index order, a blank between them. -/
def hexPairs : List Byte → List Char
  | [] => []
  | [b] => hexDigits 2 b.toNat
  | b :: bs => hexDigits 2 b.toNat ++ ' ' :: hexPairs bs

/-- A byte string between angle brackets (R83). -/
def bytesText (bs : List Byte) : String := "<" ++ String.ofList (hexPairs bs) ++ ">"

/-- `<buf>` of a request: `ABSENT` or the byte string (R83). -/
def bufferText (q : ReqFields) (data : Memory) : String :=
  if q.pres then bytesText (memBytes data) else "ABSENT"

/-- The mnemonic of an instruction, as the opcode table spells it. -/
def mnemonic : Instr → String
  | .keyload _ _ => "KEYLOAD"
  | .keyread _ _ => "KEYREAD"
  | .hash _ _ => "HASH"
  | .hashr _ _ => "HASHR"
  | .idle _ => "IDLE"
  | .loadv _ => "LOADV"
  | .test _ => "TEST"
  | .ldblk _ => "LDBLK"
  | .ldfin _ => "LDFIN"
  | .inj3 _ => "INJ3"
  | .round _ => "ROUND"
  | .inj0 _ => "INJ0"
  | .mark _ => "MARK"
  | .fold _ => "FOLD"

/-- The `tgt` field of a micro-instruction; a command has none. -/
def target : Instr → Option RomIndex
  | .keyload _ _ => none
  | .keyread _ _ => none
  | .hash _ _ => none
  | .hashr _ _ => none
  | .idle t => some t
  | .loadv t => some t
  | .test t => some t
  | .ldblk t => some t
  | .ldfin t => some t
  | .inj3 t => some t
  | .round t => some t
  | .inj0 t => some t
  | .mark t => some t
  | .fold t => some t

/-- Command syntax (R83). -/
def commandText (c : Cmd) (q : ReqFields) (data : Memory) : String :=
  match c with
  | .keyload => "KEYLOAD " ++ bufferText q data
  | .keyread => "KEYREAD"
  | .hash => "HASH " ++ bufferText q data
  | .hashr => "HASHR " ++ bufferText q data ++ ", " ++ toString q.off ++ ", " ++ toString q.cnt

/-- The name of an error (R170). -/
def errorText : ErrorKind → String
  | .invalidKeyLength => "InvalidKeyLength"
  | .nullMessage => "NullMessage"
  | .invalidRange => "InvalidRange"
  | .noKey => "NoKey"
  | .illegalCommand => "IllegalCommand"

/-- The outcome of a request (R83). -/
def outcomeText : Response → String
  | .ok => "=> OK"
  | .okTag t => "=> OK tag=0x" ++ String.ofList (hexDigits 16 t.toNat)
  | .okKey k => "=> OK key=" ++ bytesText k
  | .error e => "=> ERR " ++ errorText e

/-- Micro-instruction syntax: index, mnemonic and target of the ROM word at an index (R84). -/
def microText (k : RomIndex) : String :=
  match decodeUop (romWord k) with
  | .ok i => toString k.val ++ ": " ++ mnemonic i ++ " -> " ++ toString ((target i).getD 0).val
  | .error _ => toString k.val

end Sys2Proof.Machine
end

