-- ==== Sys2Proof/Tests/Slice0.lean ====
section
/-! SUPPORT. Tests/Slice0.lean: the model's own tests. Every expected value is the spec's (its file and
row stand in the comment). The witnesses at the end meet the hypotheses of the statements. -/

namespace Sys2Proof.Tests

open Sys2Proof.Machine

/-! ## Helpers -/

/-- The next state, where there is one. -/
def nextOf (o : Out) : Option State :=
  match o with
  | .next t => some t
  | .fault _ => none
  | .refused _ => none

/-- The refusal, where there is one. -/
def refusalOf (o : Out) : Option Refusal :=
  match o with
  | .next _ => none
  | .fault _ => none
  | .refused r => some r

/-- The fault, where there is one. -/
def faultOf (o : Out) : Option Fault :=
  match o with
  | .next _ => none
  | .fault r => some r
  | .refused _ => none

/-- The key `K` of file 95. -/
def keyK : List Byte := [0, 1, 2, 3, 4, 5, 6, 7, 8, 9, 10, 11, 12, 13, 14, 15]

/-- `msg(n)` of file 95, for `n <= 256`. -/
def msg (n : Nat) : List Byte := (List.range n).map (BitVec.ofNat 8)

/-- The buffer of T4's last row: `<de ad be 00 01 .. 08>`. -/
def odd : Memory := memOfBytes [0xde, 0xad, 0xbe, 0, 1, 2, 3, 4, 5, 6, 7, 8]

/-- The idle engine with key `K` loaded (T9 row 1). -/
def idleK : State :=
  { State.reset with
    base0 := some 0x7469686173716475, base1 := some 0x6b617f6d656e6665, keyvalid := true }

/-- The idle engine with key `K` loaded and one request on offer. -/
def offered (desc : Nat) (bs : List Byte) : State :=
  { idleK with offers := [{ desc := desc, data := memOfBytes bs }] }

/-- A run at ROM index `k` with the given registers. -/
def runAt (k : RomIndex) (q : Quad) (m : Option Word) (b : Memory) (p e : Nat) (l : Byte) : State :=
  { idleK with
    v0 := some q.v0, v1 := some q.v1, v2 := some q.v2, v3 := some q.v3
    m := m, buf := some b, ptr := some p, endp := some e, lenb := some l, upc := k }

/-- The initial working state under key `K` (R136's worked example). -/
def quadK : Quad :=
  { v0 := 0x7469686173716475, v1 := 0x6b617f6d656e6665
    v2 := 0x6b7f62616d677361, v3 := 0x7b6b696e727e6c7b }

/-- The request fields with a buffer of `n` bytes, no range. -/
def fieldsOf (n : Nat) : ReqFields := { pres := true, blen := n, off := 0, cnt := 0 }

/-- The request fields with no buffer. -/
def absent : ReqFields := { pres := false, blen := 0, off := 0, cnt := 0 }

/-! ## Well-formedness: an ill-formed term for each check -/

theorem test_wf_accepts :
    (Instr.hashr { pres := true, blen := 20, off := -1, cnt := 4 } (Memory.zeros 20)).WellFormed
      Params.default := by decide

/-- `blen` has `IDXW-1` bits (R71). -/
theorem test_wf_refuses_blen :
    ¬ (Instr.hash (fieldsOf (2 ^ 31)) (Memory.zeros (2 ^ 31))).WellFormed Params.default := by decide

theorem test_wf_refuses_off_high :
    ¬ (Instr.hashr { pres := false, blen := 0, off := 2 ^ 31, cnt := 0 } (Memory.zeros 0)).WellFormed
      Params.default := by decide

theorem test_wf_refuses_off_low :
    ¬ (Instr.hashr { pres := false, blen := 0, off := -2 ^ 31 - 1, cnt := 0 }
      (Memory.zeros 0)).WellFormed Params.default := by decide

theorem test_wf_refuses_cnt_high :
    ¬ (Instr.keyload { pres := false, blen := 0, off := 0, cnt := 2 ^ 31 } (Memory.zeros 0)).WellFormed
      Params.default := by decide

theorem test_wf_refuses_cnt_low :
    ¬ (Instr.keyread { pres := false, blen := 0, off := 0, cnt := -2 ^ 31 - 1 }
      (Memory.zeros 0)).WellFormed Params.default := by decide

/-- The bytes handed over are `blen` many (R73). -/
theorem test_wf_refuses_length :
    ¬ (Instr.keyload (fieldsOf 16) (Memory.zeros 15)).WellFormed Params.default := by decide

/-- KEYREAD exists only with HAS_KEYREAD (R93). -/
theorem test_wf_refuses_keyread :
    ¬ (Instr.keyread absent (Memory.zeros 0)).WellFormed { idxw := 32, hasKeyread := false } := by
  decide

/-! ## Decoding: words written out from the spec's encodings -/

/-- File 30 section 7. -/
theorem test_decode_keyload :
    decodeTableWord 104 0x00000000000000008000001001 =
      some (.keyload (fieldsOf 16) (Memory.zeros 16)) := by decide

theorem test_decode_keyload_absent :
    decodeTableWord 104 0x00000000000000000000000001 = some (.keyload absent (Memory.zeros 0)) := by
  decide

theorem test_decode_keyread :
    decodeTableWord 104 0x00000000000000000000000002 = some (.keyread absent (Memory.zeros 0)) := by
  decide

theorem test_decode_hash :
    decodeTableWord 104 0x00000000000000008000000f03 =
      some (.hash (fieldsOf 15) (Memory.zeros 15)) := by decide

theorem test_decode_hashr :
    decodeTableWord 104 0x0000000f000000028000001404 =
      some (.hashr { pres := true, blen := 20, off := 2, cnt := 15 } (Memory.zeros 20)) := by decide

/-- `off` is signed (R72). -/
theorem test_decode_hashr_negative :
    decodeTableWord 104 0x00000004ffffffff8000001404 =
      some (.hashr { pres := true, blen := 20, off := -1, cnt := 4 } (Memory.zeros 20)) := by decide

/-- R78, R79: `uop` in bits 8:5, `tgt` in bits 4:0 (T12's binary column). -/
theorem test_decode_idle : decodeTableWord 16 0b000000001 = some (.idle 1) := by decide
theorem test_decode_loadv : decodeTableWord 16 0b000100010 = some (.loadv 2) := by decide
theorem test_decode_test : decodeTableWord 16 0b001001000 = some (.test 8) := by decide
theorem test_decode_ldblk : decodeTableWord 16 0b001100100 = some (.ldblk 4) := by decide
theorem test_decode_ldfin : decodeTableWord 16 0b010001001 = some (.ldfin 9) := by decide
theorem test_decode_inj3 : decodeTableWord 16 0b010100101 = some (.inj3 5) := by decide
theorem test_decode_round : decodeTableWord 16 0b011001111 = some (.round 15) := by decide
theorem test_decode_inj0 : decodeTableWord 16 0b011101101 = some (.inj0 13) := by decide
theorem test_decode_mark : decodeTableWord 16 0b100001110 = some (.mark 14) := by decide
theorem test_decode_fold : decodeTableWord 16 0b100100000 = some (.fold 0) := by decide

/-- R74, R81: illegal opcodes; all eight bits are decoded. -/
theorem test_decode_illegal :
    decodeTableWord 104 0x00000000000000000000000000 = none ∧
    decodeTableWord 104 0x00000000000000008000000305 = none ∧
    decodeTableWord 104 0x00000000000000008000001081 = none := by decide

/-- R81(c): codes `0xa` to `0xf` and targets 19 to 31 are no micro-instruction. -/
theorem test_decode_illegal_uop :
    decodeTableWord 16 0b101000000 = none ∧ decodeTableWord 16 0b000010011 = none := by decide

/-- File 30 section 7, the response column. -/
theorem test_encode_responses :
    Response.ok.encode = 0 ∧ (Response.error .noKey).encode = 4 ∧
    (Response.okTag 0x726fdb47dd0e0e31).encode = 0x0000000000000000726fdb47dd0e0e3108 ∧
    (Response.okKey keyK).encode = 0x0f0e0d0c0b0a0908070605040302010010 := by decide

/-- U12: codes 6 and 7 and non-zero bits 7:5 are none of R76's shapes. -/
theorem test_decode_response_refused :
    Response.decode 6 = none ∧ Response.decode 0x20 = none := by decide

/-! ## Operators (T5) -/

theorem test_rotl64 :
    rotl64 0x0000000000000001 13 = 0x0000000000002000 ∧
    rotl64 0x8000000000000000 1 = 0x0000000000000001 ∧
    rotl64 0x0123456789abcdef 32 = 0x89abcdef01234567 ∧
    rotl64 0x0123456789abcdef 16 = 0x456789abcdef0123 := by decide

theorem test_le :
    le [0x10, 0x32, 0x54, 0x76, 0x98, 0xba, 0xdc, 0xfe] = 0xfedcba9876543210 ∧
    le [] = 0 ∧ le [0x80, 0x81, 0x82] = 0x0000000000828180 ∧
    bytesLe64 0x0706050403020100 = [0, 1, 2, 3, 4, 5, 6, 7] := by decide

/-- T3, with key `K`: the empty message and `msg(9)`. -/
theorem test_siphash24_empty : sipHash24 keyK [] = 0x726fdb47dd0e0e31 := by decide
theorem test_siphash24_nine : sipHash24 keyK (msg 9) = 0x9e0082df0ba9e4b0 := by decide

/-! ## The host commands -/

/-- T9 row 1. -/
theorem test_keyload_key :
    (nextOf (exec (.keyload (fieldsOf 16) (memOfBytes keyK)) State.reset)).map
      (fun t => (t.base0, t.base1, t.keyvalid)) =
    some (some 0x7469686173716475, some 0x6b617f6d656e6665, true) := by decide

/-- P4 row 3. -/
theorem test_keyload_fifteen :
    nextOf (exec (.keyload (fieldsOf 15) (memOfBytes (msg 15))) State.reset) =
      some { State.reset with responses := [.error .invalidKeyLength] } := by decide

/-- P4 row 5. -/
theorem test_keyread_key :
    nextOf (exec (.keyread absent (Memory.zeros 0)) idleK) =
      some { idleK with responses := [.okKey keyK] } := by decide

/-- P4 row 2. -/
theorem test_keyread_no_key :
    nextOf (exec (.keyread absent (Memory.zeros 0)) State.reset) =
      some { State.reset with responses := [.error .noKey] } := by decide

/-- P2 step 0. -/
theorem test_hash_dispatch :
    (nextOf (exec (.hash (fieldsOf 15) (memOfBytes (msg 15))) idleK)).map
      (fun t => (t.ptr, t.endp, t.lenb, t.upc)) = some (some 0, some 15, some 0x0f, 1) := by decide

/-- T7: the length byte of `msg(257)` is 01. -/
theorem test_hash_length_byte :
    (nextOf (exec (.hash (fieldsOf 257) (Memory.zeros 257)) idleK)).map
      (fun t => (t.endp, t.lenb)) = some (some 257, some 0x01) := by decide

/-- P3 step 0. -/
theorem test_hashr_dispatch :
    (nextOf (exec (.hashr { pres := true, blen := 12, off := 3, cnt := 9 } odd) idleK)).map
      (fun t => (t.ptr, t.endp, t.lenb, t.upc)) = some (some 3, some 12, some 0x09, 1) := by decide

/-- T4: the sum 4294967294 does not wrap to -2. -/
theorem test_hashr_no_wrap :
    nextOf (exec (.hashr { pres := true, blen := 20, off := 2147483647, cnt := 2147483647 }
      (Memory.zeros 20)) idleK) =
      some { idleK with responses := [.error .invalidRange] } := by decide

/-! ## The sequencer -/

/-- P4 row 8, through a step: the descriptor is decoded and the range refused. -/
theorem test_idle_invalid_range :
    (nextOf (step (offered 0x00000002000000028000000304 [0, 1, 2]))).map
      (fun t => (t.responses, t.offers, t.upc)) = some ([.error .invalidRange], [], 0) := by decide

/-- P4 row 11: an illegal opcode with a buffer. -/
theorem test_idle_illegal :
    (nextOf (step (offered 0x00000000000000008000000305 [0, 0, 0]))).map
      (fun t => (t.responses, t.offers, t.upc)) = some ([.error .illegalCommand], [], 0) := by decide

/-- T6, the TEST line: `END - PTR = 8` goes to 3. -/
theorem test_test_eight :
    (nextOf (exec (.test 8) (runAt 2 quadK none (memOfBytes (msg 15)) 7 15 15))).map
      State.upc = some 3 := by decide

/-- T6, the TEST line: `END - PTR = 7` goes to 8. -/
theorem test_test_seven :
    (nextOf (exec (.test 8) (runAt 2 quadK none (memOfBytes (msg 15)) 8 15 15))).map
      State.upc = some 8 := by decide

/-! ## The block loader (T6) -/

theorem test_ldblk_aligned :
    (nextOf (exec (.ldblk 4) (runAt 3 quadK none (memOfBytes (msg 15)) 0 15 15))).map
      (fun t => (t.m, t.ptr)) = some (some 0x0706050403020100, some 8) := by decide

theorem test_ldblk_unaligned :
    (nextOf (exec (.ldblk 4) (runAt 3 quadK none odd 3 12 9))).map
      (fun t => (t.m, t.ptr)) = some (some 0x0706050403020100, some 11) := by decide

theorem test_ldfin_seven :
    (nextOf (exec (.ldfin 9) (runAt 8 quadK none (memOfBytes (msg 15)) 8 15 15))).map
      (fun t => (t.m, t.ptr)) = some (some 0x0f0e0d0c0b0a0908, some 15) := by decide

theorem test_ldfin_range_length :
    (nextOf (exec (.ldfin 9) (runAt 8 quadK none odd 11 12 9))).map
      (fun t => (t.m, t.ptr)) = some (some 0x0900000000000008, some 12) := by decide

/-! ## The datapath -/

/-- P1 step 1. -/
theorem test_loadv :
    (nextOf (exec (.loadv 2) { idleK with upc := 1 })).map (fun t => (t.v0, t.v1, t.v2, t.v3)) =
      some (some 0x7469686173716475, some 0x6b617f6d656e6665,
        some 0x6b7f62616d677361, some 0x7b6b696e727e6c7b) := by decide

/-- P2 step 4. -/
theorem test_inj3 :
    (nextOf (exec (.inj3 5) (runAt 4 quadK (some 0x0706050403020100) odd 0 12 9))).map State.v3 =
      some (some 0x7c6d6c6a717c6d7b) := by decide

/-- The input of T5's seventh row. -/
def quadWrap : Quad := { v0 := 0xffffffffffffffff, v1 := 1, v2 := 0xffffffffffffffff, v3 := 1 }

/-- T5, the seventh row: every addition carries out of bit 63. -/
theorem test_round_carries :
    (nextOf (exec (.round 6) (runAt 5 quadWrap none odd 0 12 9))).map
      (fun t => (t.v0, t.v1, t.v2, t.v3)) =
      some (some 0x0000000000010000, some 0x0000000040002000,
        some 0x0000200000000000, some 0x0000002000010000) := by decide

/-- T5, the ninth row. -/
theorem test_round_key :
    (nextOf (exec (.round 11) (runAt 10 quadK none odd 0 12 9))).map
      (fun t => (t.v0, t.v1, t.v2, t.v3)) =
      some (some 0x6864848c93698c85, some 0x41d43f143c94a7dc,
        some 0xf3f94792d7121732, some 0x5e52f75805987c12) := by decide

/-- P2 step 7. -/
theorem test_inj0 :
    (nextOf (exec (.inj0 2) (runAt 7 { quadK with v0 := 0x4d07749cdd0858e0 }
      (some 0x0706050403020100) odd 0 12 9))).map State.v0 =
      some (some 0x4a017198de0a59e0) := by decide

/-- R140's worked example. -/
theorem test_mark :
    (nextOf (exec (.mark 14) (runAt 13 { quadK with v2 := 0x37b04f9f8026831d } none odd 0 12 9))).map
      State.v2 = some (some 0x37b04f9f802683e2) := by decide

/-- The working state of P1's step 12. -/
def quadLast : Quad :=
  { v0 := 0xe738d0dfdc9b2453, v1 := 0x214ac5771e0c4cd2
    v2 := 0xe2ea71f68a57ef6d, v3 := 0x56f7bf1995ce89dd }

/-- P1 step 13: the tag. -/
theorem test_fold_tag :
    (nextOf (exec (.fold 0) (runAt 18 quadLast (some 0) odd 12 12 9))).map State.responses =
      some [.okTag 0x726fdb47dd0e0e31] := by decide

/-- P1 step 13: what FOLD releases and what it leaves. -/
theorem test_fold_releases :
    (nextOf (exec (.fold 0) (runAt 18 quadLast (some 0) odd 12 12 9))).map
      (fun t => (t.v0, t.m, t.buf, t.ptr)) = some (none, none, none, some 12) := by decide

/-! ## Text (R83, R84) -/

theorem test_text :
    microText 18 = "18: FOLD -> 0" ∧
    commandText .hashr { pres := true, blen := 3, off := -1, cnt := 2 } (memOfBytes [0, 1, 0xaf]) =
      "HASHR <00 01 af>, -1, 2" ∧
    outcomeText (.okTag 0x726fdb47dd0e0e31) = "=> OK tag=0x726fdb47dd0e0e31" ∧
    outcomeText (.error .noKey) = "=> ERR NoKey" := by decide

/-! ## Witnesses: concrete values that meet the hypotheses of each statement, clause by clause -/

/-- A run on `msg(15)` under key `K` with a loaded block, at ROM index `k` (P2). -/
def runK (k : RomIndex) : State := runAt k quadK (some 0x0706050403020100) (memOfBytes (msg 15)) 8 15 15

/-- The engine before its LOADV step (P2 step 0). -/
def dispatched : State :=
  { idleK with
    buf := some (memOfBytes (msg 15)), ptr := some 0, endp := some 15, lenb := some 15, upc := 1 }

/-- The engine with no KEYREAD (R93). -/
def noKeyread : State := { State.reset with cfg := { idxw := 32, hasKeyread := false } }

/-- A request descriptor with a buffer handed over. -/
def reqOf (desc : Nat) (bs : List Byte) : Offer := { desc := desc, data := memOfBytes bs }

/-- An honest offer, decided. -/
abbrev honestB (p : Params) (o : Offer) : Prop :=
  o.desc < 2 ^ p.reqBits ∧ (reqFields p o.desc).Honest o.data

theorem honest_of {p : Params} {o : Offer} (h : honestB p o) : o.Honest p := h

/-- The invariant holds in a running state (P2's state at TEST), so it is no claim about idle states
only. -/
theorem witness_Inv_running : Inv (runAt 2 quadK none (memOfBytes (msg 15)) 8 15 15) where
  cfg_wf := by decide
  base0_iff := by decide
  base1_iff := by decide
  idle_released := by decide
  v0_iff := by decide
  v1_iff := by decide
  v2_iff := by decide
  v3_iff := by decide
  block_loaded := by decide
  running := fun _ => ⟨rfl, memOfBytes (msg 15), 8, 15, 15, 0, rfl, rfl, rfl, rfl, by decide,
    { start_le := by decide, ptr_le := by decide, end_le := by decide, length_byte := by decide
      whole_blocks := by decide, block_left := by decide, tail_left := by decide
      all_read := by decide }⟩

theorem witness_Inv_idle : Inv idleK where
  cfg_wf := by decide
  base0_iff := by decide
  base1_iff := by decide
  idle_released := by decide
  v0_iff := by decide
  v1_iff := by decide
  v2_iff := by decide
  v3_iff := by decide
  block_loaded := by decide
  running := fun h => absurd rfl h

/-- A step under KEYVALID, and the reset event on an idle engine with a key and on a run. -/
theorem witness_ResetAbandonsRun :
    (∃ t, step (runK 5) = .next t) ∧ (runK 5).keyvalid = true ∧ idleK.keyvalid = true ∧
    (hostMove .reset idleK).keyvalid = false ∧ (hostMove .reset idleK).base0 = none ∧
    (hostMove .reset (runK 5)).buf = none := ⟨⟨_, rfl⟩, rfl, rfl, rfl, rfl, rfl⟩

/-- A step that has a next state, KEYVALID being 1. -/
theorem witness_StepKeepsParamsAndKeyvalid :
    (∃ t, step (runK 5) = .next t) ∧ (runK 5).keyvalid = true := ⟨⟨_, rfl⟩, rfl⟩

/-- Every field at the ends of its range, one command each, and a micro-instruction. -/
theorem witness_DecodeEncodeRoundTrip :
    Params.default.Wf ∧ ({ idxw := 8, hasKeyread := true } : Params).Wf ∧
    (Instr.keyload { pres := true, blen := 2 ^ 31 - 1, off := -2 ^ 31, cnt := 2 ^ 31 - 1 }
      (Memory.zeros (2 ^ 31 - 1))).WellFormed Params.default ∧
    (Instr.keyread absent odd).WellFormed Params.default ∧
    (Instr.hash absent odd).WellFormed Params.default ∧
    (Instr.hashr { pres := true, blen := 127, off := 127, cnt := -128 } (Memory.zeros 127)).WellFormed
      { idxw := 8, hasKeyread := true } ∧
    (Instr.fold 18).WellFormed Params.default := by decide

/-- A word with the least and one with the greatest code, and the greatest target. -/
theorem witness_MicroWordsDecodeExactly :
    decodeUop 0 = .ok (.idle 0) ∧ decodeUop (9 * 32 + 18) = .ok (.fold 18) := ⟨rfl, rfl⟩

/-- A descriptor for each clause. -/
theorem witness_OpcodeMap :
    (∀ d ∈ [0x8000001001, 0x02, 0x8000000003, 0x8000000304, 0x00, 0x05, 0xff],
      d < 2 ^ Params.default.reqBits) ∧
    0x8000001001 % 256 = 0x01 ∧ (0x02 % 256 = 0x02 ∧ Params.default.hasKeyread = true) ∧
    noKeyread.cfg.hasKeyread = false ∧ 0x8000000003 % 256 = 0x03 ∧ 0x8000000304 % 256 = 0x04 ∧
    (0x00 % 256 = 0x00) ∧ 0x05 ≤ 0x05 % 256 ∧ 0x05 ≤ 0xff % 256 := by decide

theorem witness_ResponseRoundTrip :
    Response.ok.WellFormed ∧ (Response.okTag 0xff).WellFormed ∧ (Response.okKey keyK).WellFormed ∧
    (Response.error .noKey).WellFormed := by decide

theorem witness_ResponseLayout :
    keyK.length = 16 ∧ keyK[0]? = some 0 ∧ keyK[15]? = some 15 := by decide

theorem witness_LittleEndian :
    ([] : List Byte).length ≤ 8 ∧ (msg 8).length ≤ 8 ∧ (msg 8).length = 8 ∧ 0 < 8 ∧ 7 < 8 := by decide

theorem witness_RotationMovesBits :
    1 ≤ 1 ∧ 1 ≤ 63 ∧ 63 ≤ 63 ∧ 0 < 64 ∧ 63 < 64 := by decide

theorem witness_AbsorbSequence :
    (runK 4).v0 = some quadK.v0 ∧ (runK 4).v1 = some quadK.v1 ∧ (runK 4).v2 = some quadK.v2 ∧
    (runK 4).v3 = some quadK.v3 ∧ (runK 4).m = some 0x0706050403020100 := by decide

/-- A key of 16 bytes, none, and buffers of 15 and 17 bytes. -/
theorem witness_KeyloadLoadsOrRejects :
    State.reset.upc = 0 ∧
    ((fieldsOf 16).Honest (memOfBytes keyK) ∧ (fieldsOf 16).pres = true ∧ (fieldsOf 16).blen = 16) ∧
    (absent.Honest odd ∧ absent.pres = false) ∧
    ((fieldsOf 15).Honest (Memory.zeros 15) ∧ (fieldsOf 15).blen ≠ 16) ∧
    ((fieldsOf 17).Honest (Memory.zeros 17) ∧ (fieldsOf 17).blen ≠ 16) := by decide

theorem witness_KeyreadAnswersKey :
    (noKeyread.upc = 0 ∧ noKeyread.cfg.hasKeyread = false) ∧
    (State.reset.upc = 0 ∧ State.reset.cfg.hasKeyread = true ∧ State.reset.keyvalid = false) ∧
    (idleK.upc = 0 ∧ idleK.cfg.hasKeyread = true ∧ idleK.keyvalid = true ∧
      idleK.base0 = some 0x7469686173716475 ∧ idleK.base1 = some 0x6b617f6d656e6665) := by decide

theorem witness_KeyreadReturnsLoadedKey :
    State.reset.upc = 0 ∧ State.reset.cfg.hasKeyread = true ∧ (fieldsOf 16).pres = true ∧
    (fieldsOf 16).blen = 16 ∧ (memOfBytes keyK).len = 16 := by decide

/-- No key; a key and no buffer; a key and a buffer, the empty one too. -/
theorem witness_HashStartsRun :
    (State.reset.upc = 0 ∧ (fieldsOf 0).Honest (Memory.zeros 0) ∧ State.reset.keyvalid = false) ∧
    (idleK.upc = 0 ∧ idleK.keyvalid = true ∧ absent.Honest odd ∧ absent.pres = false) ∧
    ((fieldsOf 15).Honest (memOfBytes (msg 15)) ∧ (fieldsOf 15).pres = true) ∧
    (fieldsOf 0).pres = true := by decide

/-- T4: each reason for InvalidRange, and the ranges at the end of the buffer. -/
theorem witness_HashrStartsRun :
    idleK.upc = 0 ∧ idleK.keyvalid = true ∧ State.reset.keyvalid = false ∧ absent.pres = false ∧
    (∀ r ∈ [((-1 : Int), (2 : Int)), (0, -1), (2, 2), (4, 0)],
      ({ pres := true, blen := 3, off := r.1, cnt := r.2 } : ReqFields).Honest (memOfBytes (msg 3)) ∧
      (r.1 < 0 ∨ r.2 < 0 ∨ r.1 + r.2 > (memOfBytes (msg 3)).len)) ∧
    (∀ r ∈ [((3 : Nat), (0 : Nat)), (0, 3), (0, 0)], r.1 + r.2 ≤ (memOfBytes (msg 3)).len) := by decide

/-- Opcodes 0x00, 0x05 and 0xff, and KEYREAD where it does not exist. -/
theorem witness_IllegalOpcodeAnswered :
    (∀ d ∈ [0x00, 0x05, 0xff], (offered d []).upc = 0 ∧ (offered d []).offers = [reqOf d []] ∧
      d < 2 ^ (offered d []).cfg.reqBits ∧ (d % 256 = 0x00 ∨ 0x05 ≤ d % 256)) ∧
    (noKeyread.upc = 0 ∧ (reqOf 0x02 []).desc < 2 ^ noKeyread.cfg.reqBits ∧
      (reqOf 0x02 []).desc % 256 = 0x02 ∧ noKeyread.cfg.hasKeyread = false) := by decide

/-- T11: a request for each of the five errors (the KEYVALID test before the buffer's). -/
theorem witness_ErrorPriority :
    honestB idleK.cfg (reqOf 0x05 []) ∧
    (honestB idleK.cfg (reqOf 0x04 []) ∧ State.reset.keyvalid = false) ∧
    (honestB idleK.cfg (reqOf 0x03 []) ∧ idleK.keyvalid = true ∧
      (reqFields idleK.cfg 0x03).pres = false) ∧
    (honestB idleK.cfg (reqOf 0x01 []) ∧ (reqFields idleK.cfg 0x01).pres = false) ∧
    (honestB idleK.cfg (reqOf 0x00000000ffffffff8000000104 [0]) ∧
      (reqFields idleK.cfg 0x00000000ffffffff8000000104).pres = true ∧
      (reqFields idleK.cfg 0x00000000ffffffff8000000104).off < 0) := by decide

theorem witness_BusyEngineAcceptsNothing :
    (runK 5).upc ≠ 0 ∧ ∃ t, step (runK 5) = .next t := ⟨by decide, _, rfl⟩

theorem witness_StepRunsRomWord :
    decodeUop (romWord idleK.upc) = .ok (.idle 1) ∧ decodeUop (romWord (runK 18).upc) = .ok (.fold 0) :=
  ⟨rfl, rfl⟩

theorem witness_StepRunsOfferedRequest :
    (offered 0x02 []).upc = 0 ∧ (offered 0x02 []).Accepts (reqOf 0x02 []) [] ∧
    decodeReq idleK.cfg 0x02 (memOfBytes []) = .ok (.keyread absent (memOfBytes [])) :=
  ⟨rfl, rfl, rfl⟩

theorem witness_IdleAcceptsAtMostOne :
    (idleK.upc = 0 ∧ idleK.offers = []) ∧
    ((hostMove (.offer (reqOf 0x02 [])) (offered 0x8000000003 [])).upc = 0 ∧
      (hostMove (.offer (reqOf 0x02 [])) (offered 0x8000000003 [])).offers.length = 2) := by decide

/-- P2's request, and T9's. -/
theorem witness_IdleDispatches :
    idleK.upc = 0 ∧ idleK.keyvalid = true ∧
    (offered 0x8000000f03 (msg 15)).offers = [reqOf 0x8000000f03 (msg 15)] ∧
    (honestB idleK.cfg (reqOf 0x8000000f03 (msg 15)) ∧
      (reqFields idleK.cfg 0x8000000f03).pres = true ∧ 0x8000000f03 % 256 = 0x03) ∧
    (honestB idleK.cfg (reqOf 0x8000001001 keyK) ∧ (reqFields idleK.cfg 0x8000001001).pres = true ∧
      0x8000001001 % 256 = 0x01 ∧ (reqOf 0x8000001001 keyK).data.len = 16) := by decide

/-- `END - PTR` of 8 and of 7, at ROM index 2. -/
theorem witness_TestBranches :
    (runK 2).ptr = some 8 ∧ (runK 2).endp = some 15 ∧ ((15 : Nat) : Int) - (8 : Nat) < 8 ∧
    ((15 : Nat) : Int) - (7 : Nat) ≥ 8 ∧ (3 : RomIndex).val = (runK 2).upc.val + 1 := by decide

/-- The last eight bytes of a buffer. -/
theorem witness_LdblkLoadsBlock :
    (runAt 3 quadK none odd 4 12 9).buf = some odd ∧ (runAt 3 quadK none odd 4 12 9).ptr = some 4 ∧
    4 + 8 ≤ odd.len := by decide

/-- Seven trailing bytes, and none. -/
theorem witness_LdfinBuildsFinalBlock :
    (runK 8).buf = some (memOfBytes (msg 15)) ∧ (runK 8).ptr = some 8 ∧ (runK 8).endp = some 15 ∧
    (runK 8).lenb = some 15 ∧ 8 ≤ 15 ∧ 15 - 8 ≤ 7 ∧ 15 ≤ (memOfBytes (msg 15)).len ∧
    (runAt 8 quadK none odd 12 12 9).ptr = (runAt 8 quadK none odd 12 12 9).endp := by decide

theorem witness_LdfinBlockBytes :
    (nextOf (exec (.ldfin 9) (runK 8))).map State.m = some (some 0x0f0e0d0c0b0a0908) := by decide

/-- Two buffers that differ before the range and after it. -/
theorem witness_LoaderReadsOnlyMessage :
    (runAt 3 quadK none (memOfBytes (0xaa :: msg 15)) 1 14 13).buf = some (memOfBytes (0xaa :: msg 15)) ∧
    14 ≤ (memOfBytes (0xaa :: msg 15)).len ∧ 14 ≤ (memOfBytes (0xbb :: msg 13)).len ∧
    (∀ a, a < 14 → 1 ≤ a →
      readByte (memOfBytes (0xbb :: msg 13)) a = readByte (memOfBytes (0xaa :: msg 15)) a) ∧
    1 + 8 ≤ 14 ∧
    (nextOf (exec (.ldblk 4) (runAt 3 quadK none (memOfBytes (0xaa :: msg 15)) 1 14 13))).isSome = true ∧
    (nextOf (exec (.ldfin 9) (runAt 8 quadK none (memOfBytes (0xaa :: msg 15)) 9 14 13))).isSome =
      true := by decide

theorem witness_LoadvCreatesWorkingState :
    dispatched.base0 = some 0x7469686173716475 ∧ dispatched.base1 = some 0x6b617f6d656e6665 := by decide

/-- INJ3, INJ0, MARK, ROUND and FOLD find their registers in a run. -/
theorem witness_Inj3InjectsBlock :
    (runK 4).v3 = some quadK.v3 ∧ (runK 4).m = some 0x0706050403020100 := by decide
theorem witness_Inj0InjectsBlock :
    (runK 7).v0 = some quadK.v0 ∧ (runK 7).m = some 0x0706050403020100 := by decide
theorem witness_MarkSeparatesFinalization : (runK 13).v2 = some quadK.v2 := by decide
theorem witness_RoundAppliesSipRound :
    (runK 5).v0 = some quadK.v0 ∧ (runK 5).v1 = some quadK.v1 ∧ (runK 5).v2 = some quadK.v2 ∧
    (runK 5).v3 = some quadK.v3 := by decide
theorem witness_FoldAnswersTag :
    (runK 18).v0 = some quadK.v0 ∧ (runK 18).v1 = some quadK.v1 ∧ (runK 18).v2 = some quadK.v2 ∧
    (runK 18).v3 = some quadK.v3 := by decide

/-- Every register that can hold no value holds none after reset (R34); for KEYREAD, a state with
KEYVALID and no key words. -/
theorem witness_ReadingNoValueFaults :
    State.reset.base0 = none ∧ State.reset.base1 = none ∧ State.reset.ptr = none ∧
    State.reset.endp = none ∧ State.reset.buf = none ∧ State.reset.lenb = none ∧
    State.reset.v0 = none ∧ State.reset.v1 = none ∧ State.reset.v2 = none ∧ State.reset.v3 = none ∧
    State.reset.m = none ∧
    (({ State.reset with keyvalid := true } : State).upc = 0 ∧
      ({ State.reset with keyvalid := true } : State).cfg.hasKeyread = true ∧
      ({ State.reset with keyvalid := true } : State).base0 = none) := by decide

/-- LDBLK one byte short, LDFIN with eight bytes left, with a negative rest and with END one past the buffer,
TEST at index 18, a request of 16 bytes that hands over 15, and a descriptor of 105 bits. -/
theorem witness_StopsOutsideTheRules :
    ((runAt 3 quadK none odd 5 12 9).buf = some odd ∧ (runAt 3 quadK none odd 5 12 9).ptr = some 5 ∧
      odd.len < 5 + 8) ∧
    ((runAt 8 quadK none odd 4 12 9).ptr = some 4 ∧ (runAt 8 quadK none odd 4 12 9).endp = some 12 ∧
      (runAt 8 quadK none odd 4 12 9).lenb = some 9 ∧ 4 + 7 < 12) ∧ 11 < 12 ∧
    ((runAt 8 quadK none odd 6 13 9).ptr = some 6 ∧ (runAt 8 quadK none odd 6 13 9).endp = some 13 ∧
      6 ≤ 13 ∧ 13 - 6 ≤ 7 ∧ odd.len < 13) ∧
    ((offered (2 ^ 104) []).upc = 0 ∧ (offered (2 ^ 104) []).Accepts (reqOf (2 ^ 104) []) [] ∧
      2 ^ (offered (2 ^ 104) []).cfg.reqBits ≤ 2 ^ 104) ∧
    ((runAt 18 quadK none odd 4 12 9).upc.val = 18 ∧ 4 + 8 ≤ 12) ∧
    (idleK.upc = 0 ∧ (fieldsOf 16).pres = true ∧ (Memory.zeros 15).len ≠ (fieldsOf 16).blen) := by
  unfold State.Accepts
  refine ⟨by decide, by decide, by decide, by decide, ⟨rfl, rfl, by decide⟩, by decide, by decide⟩

theorem test_stops :
    faultOf (exec (.ldblk 4) (runAt 3 quadK none odd 5 12 9)) = some (.outsideBuffer 12) ∧
    faultOf (exec (.test 8) State.reset) = some (.noValue .endp) ∧
    refusalOf (exec (.hash (fieldsOf 16) (Memory.zeros 15)) idleK) = some .lengthMismatch := by decide

/-- Each instruction the frame names answers a next state. -/
theorem witness_DatapathFrame :
    (nextOf (exec (.loadv 2) (runK 1))).isSome = true ∧ (nextOf (exec (.round 6) (runK 5))).isSome = true ∧
    (nextOf (exec (.inj3 5) (runK 4))).isSome = true ∧ (nextOf (exec (.inj0 2) (runK 7))).isSome = true ∧
    (nextOf (exec (.mark 14) (runK 13))).isSome = true := by decide

theorem witness_LoaderFrame :
    (nextOf (exec (.test 8) (runK 2))).isSome = true ∧
    (nextOf (exec (.ldblk 4) (runAt 3 quadK none odd 3 12 9))).isSome = true ∧
    (nextOf (exec (.ldfin 9) (runK 8))).isSome = true := by decide

theorem witness_FoldFrame : (nextOf (exec (.fold 0) (runK 18))).isSome = true := by decide

/-- Each command, a started run, and an answered error. -/
theorem witness_CommandFrame :
    (nextOf (exec (.keyload (fieldsOf 16) (memOfBytes keyK)) idleK)).isSome = true ∧
    (nextOf (exec (.keyread absent odd) idleK)).isSome = true ∧
    (nextOf (exec (.hash (fieldsOf 12) odd) idleK)).isSome = true ∧
    (nextOf (exec (.hashr (fieldsOf 12) odd) idleK)).isSome = true ∧
    (nextOf (exec (.hash absent odd) idleK)).map State.responses = some [.error .nullMessage] := by decide

/-- No request, an accepted HASH (UPC changes), an accepted KEYLOAD, a busy engine. -/
theorem witness_IdleFrame :
    (nextOf (exec (.idle 1) idleK)).map State.upc = some 0 ∧
    (nextOf (exec (.idle 1) (offered 0x8000000f03 (msg 15)))).map State.upc = some 1 ∧
    (nextOf (exec (.idle 1) (offered 0x8000001001 keyK))).map State.responses = some [.ok] ∧
    (nextOf (exec (.idle 1) (runK 5))).isSome = true := by decide

/-- A step of the datapath, FOLD, and the accepting of a buffer. -/
theorem witness_NoStepWritesMemory :
    (nextOf (step (runK 5))).isSome = true ∧ (nextOf (step (runK 18))).isSome = true ∧
    (nextOf (step (offered 0x8000000f03 (msg 15)))).isSome = true := by decide

theorem witness_StepKeepsInv :
    Inv (runAt 2 quadK none (memOfBytes (msg 15)) 8 15 15) ∧
    ∃ t, step (runAt 2 quadK none (memOfBytes (msg 15)) 8 15 15) = .next t :=
  ⟨witness_Inv_running, _, rfl⟩

theorem witness_HostMovesKeepInv : Inv idleK ∧ Inv (runAt 2 quadK none (memOfBytes (msg 15)) 8 15 15) :=
  ⟨witness_Inv_idle, witness_Inv_running⟩

theorem witness_StepKeepsCanonical :
    Canonical (offered 0x8000000f03 (msg 15)) ∧ ∃ t, step (offered 0x8000000f03 (msg 15)) = .next t := by
  refine ⟨⟨fun b h => ?_, fun o h => ?_⟩, _, rfl⟩
  · cases h
  · rw [List.mem_singleton.1 h]
    decide

/-- Two ways to hand over the same bytes. -/
theorem witness_CanonicalBuffersEqual :
    memWf (memOfBytes [0, 0]) = true ∧ memWf (Memory.zeros 2) = true ∧
    (memOfBytes [0, 0]).len = (Memory.zeros 2).len ∧
    ∀ a, readByte (memOfBytes [0, 0]) a = readByte (Memory.zeros 2) a :=
  ⟨rfl, rfl, rfl, fun _ => rfl⟩

theorem witness_RunNeverStops :
    (Inv (runAt 2 quadK none (memOfBytes (msg 15)) 8 15 15) ∧
      (runAt 2 quadK none (memOfBytes (msg 15)) 8 15 15).upc ≠ 0) ∧
    Inv (offered 0x8000000f03 (msg 15)) ∧ (offered 0x8000000f03 (msg 15)).OffersHonest := by
  refine ⟨⟨witness_Inv_running, by decide⟩, ?_, fun o h => ?_⟩
  · obtain ⟨h1, h2, h3, h4, h5, h6, h7, h8, h9, h10⟩ := witness_Inv_idle
    exact ⟨h1, h2, h3, h4, h5, h6, h7, h8, h9, h10⟩
  · rw [List.mem_singleton.1 h]
    exact honest_of (by decide)

theorem witness_OneResponsePerRequest :
    (nextOf (step (runK 18))).isSome = true ∧ (nextOf (step (offered 0x02 []))).isSome = true := by decide

/-- A step that changes the key. -/
theorem witness_KeyChangesOnlyByKeyload :
    (nextOf (step { offered 0x8000001001 keyK with keyvalid := false, base0 := none })).map
      State.base0 = some (some 0x7469686173716475) := by decide

theorem witness_MicroProgramPaths :
    (nextOf (step (runK 7))).map State.upc = some 2 ∧ (nextOf (step (runK 2))).map State.upc = some 8 := by
  decide

theorem witness_StepsLeftCountDown :
    Inv (runAt 2 quadK none (memOfBytes (msg 15)) 8 15 15) ∧
    (runAt 2 quadK none (memOfBytes (msg 15)) 8 15 15).upc ≠ 0 ∧
    (nextOf (step (runAt 2 quadK none (memOfBytes (msg 15)) 8 15 15))).map
      (fun t => (t.ptr, t.endp)) = some (some 8, some 15) := ⟨witness_Inv_running, by decide, by decide⟩

/-- P2's request: the key in force is `K` (T9). -/
theorem witness_HashRunAnswersTag :
    (offered 0x8000000f03 (msg 15)).upc = 0 ∧ (offered 0x8000000f03 (msg 15)).keyvalid = true ∧
    keyK.length = 16 ∧
    idleK.base0 = some (0x736f6d6570736575 ^^^ le (keyK.take 8)) ∧
    idleK.base1 = some (0x646f72616e646f6d ^^^ le (keyK.drop 8)) ∧
    (offered 0x8000000f03 (msg 15)).Accepts (reqOf 0x8000000f03 (msg 15)) [] ∧
    honestB idleK.cfg (reqOf 0x8000000f03 (msg 15)) ∧ 0x8000000f03 % 256 = 0x03 ∧
    (reqFields idleK.cfg 0x8000000f03).pres = true :=
  ⟨rfl, rfl, rfl, by decide, by decide, rfl, by decide, by decide, by decide⟩

/-- P5: two hosts at once. Whichever request is taken meets the hypotheses, and the other stays. -/
theorem witness_HashRunAnswersTag_two :
    ∃ o rest,
      ({ idleK with offers := [reqOf 0x8000000003 [], reqOf 0x8000000103 [0]] } : State).Accepts o rest ∧
      rest.length = 1 ∧ honestB idleK.cfg o ∧ o.desc % 256 = 0x03 ∧
      (reqFields idleK.cfg o.desc).pres = true := by
  have h2 := Nat.mod_lt (Config.arbiter idleK.accepted) (show 0 < 2 by decide)
  have h01 : Config.arbiter idleK.accepted % 2 = 0 ∨ Config.arbiter idleK.accepted % 2 = 1 := by omega
  rcases h01 with h | h
  · exact ⟨reqOf 0x8000000003 [], [reqOf 0x8000000103 [0]], by
      simp [State.Accepts, pickOffer, h], rfl, by decide, by decide, by decide⟩
  · exact ⟨reqOf 0x8000000103 [0], [reqOf 0x8000000003 []], by
      simp [State.Accepts, pickOffer, h], rfl, by decide, by decide, by decide⟩

/-- P3's request. -/
theorem witness_HashrRunAnswersTag :
    ({ idleK with offers := [{ desc := 0x00000009000000038000000c04, data := odd }] } : State).Accepts
      { desc := 0x00000009000000038000000c04, data := odd } [] ∧
    honestB idleK.cfg { desc := 0x00000009000000038000000c04, data := odd } ∧
    0x00000009000000038000000c04 % 256 = 0x04 ∧
    (reqFields idleK.cfg 0x00000009000000038000000c04).pres = true ∧
    (reqFields idleK.cfg 0x00000009000000038000000c04).off = (3 : Nat) ∧
    (reqFields idleK.cfg 0x00000009000000038000000c04).cnt = (9 : Nat) ∧ 3 + 9 ≤ odd.len :=
  ⟨rfl, by decide, by decide, by decide, by decide, by decide, by decide⟩

/-- Equal messages have equal blocks; `msg(7)` and the first eight bytes do not (T3's remark). -/
theorem witness_BlocksDetermineMessage :
    blocks (msg 7) = blocks [0, 1, 2, 3, 4, 5, 6] ∧
    blocks (msg 7) = [0x0706050403020100] ∧ blocks (msg 8) = [0x0706050403020100, 0x0800000000000000] := by
  decide

end Sys2Proof.Tests
end

/-! The byte operators of R12, each said once: the weights of `le`, the elements of `bytesLe64`, and
the bits both of them move, from which the two inverse laws follow. -/

namespace Sys2Proof.Machine

/-! The weights of `le` -/

/-- One byte more, as an equation on naturals: the shifted rest loses what lies above bit 63. -/
theorem toNat_le_cons (b : Byte) (bs : List Byte) :
    (le (b :: bs)).toNat = (le bs).toNat * 2 ^ 8 % 2 ^ 64 + b.toNat := by
  have hb : b.toNat < 2 ^ 8 := b.isLt
  have hrest : (le bs).toNat * 2 ^ 8 % 2 ^ 64 = ((le bs).toNat % 2 ^ 56) <<< 8 := by
    rw [Nat.shiftLeft_eq]; omega
  have hzero : (b.zeroExtend 64).toNat = b.toNat :=
    BitVec.toNat_setWidth_of_le (by decide)
  rw [le, BitVec.toNat_or, hzero, BitVec.toNat_shiftLeft, Nat.shiftLeft_eq, hrest,
    Nat.shiftLeft_add_eq_or_of_lt hb, Nat.or_comm]

/-- `n` bytes fill at most the low `8 * n` bits, so up to 8 of them the shift loses nothing. -/
theorem toNat_le_lt_two_pow {bs : List Byte} (h : bs.length ≤ 8) :
    (le bs).toNat < 2 ^ (8 * bs.length) := by
  induction bs with
  | nil => exact Nat.one_pos
  | cons b bs ih =>
    have hrest := ih (Nat.le_of_succ_le h)
    have hb := b.isLt
    have hpow : 2 ^ (8 * (b :: bs).length) = 2 ^ (8 * bs.length) * 2 ^ 8 :=
      Nat.pow_add 2 (8 * bs.length) 8
    rw [toNat_le_cons, hpow]
    omega

/-- A common factor leaves a sum; Mathlib's `List.sum_map_mul_right` for `Nat`, which the package
(core Lean only) does not import. -/
theorem sum_map_mul_const (f : Nat → Nat) (c : Nat) (l : List Nat) :
    (l.map fun i => f i * c).sum = (l.map f).sum * c := by
  induction l with
  | nil => simp only [List.map_nil, List.sum_nil, Nat.zero_mul]
  | cons i l ih => simp only [List.map_cons, List.sum_cons, ih, Nat.add_mul]

/-- Up to 8 bytes nothing is lost: `le` is the sum of the bytes' weights (R12). -/
theorem toNat_le_eq_sum {bs : List Byte} (h : bs.length ≤ 8) :
    (le bs).toNat =
      ((List.range bs.length).map fun i => (bs.getD i 0).toNat * 2 ^ (8 * i)).sum := by
  induction bs with
  | nil => rfl
  | cons b bs ih =>
    have hlen : bs.length ≤ 7 := Nat.le_of_succ_le_succ h
    have hfit : (le bs).toNat * 2 ^ 8 < 2 ^ 64 := by
      have hlt := toNat_le_lt_two_pow (bs := bs) (by omega)
      have hpow : 2 ^ (8 * bs.length) ≤ 2 ^ 56 := Nat.pow_le_pow_right (by decide) (by omega)
      omega
    have hweight (i : Nat) : ((b :: bs).getD (i + 1) 0).toNat * 2 ^ (8 * (i + 1)) =
        (bs.getD i 0).toNat * 2 ^ (8 * i) * 2 ^ 8 := by
      rw [List.getD_cons_succ, Nat.mul_add_one, Nat.pow_add, Nat.mul_assoc]
    rw [toNat_le_cons, Nat.mod_eq_of_lt hfit, ih (by omega), ← sum_map_mul_const,
      List.length_cons, List.range_succ_eq_map, List.map_cons, List.map_map, List.sum_cons,
      List.getD_cons_zero, Nat.mul_zero, Nat.pow_zero, Nat.mul_one, Nat.add_comm]
    simp only [Function.comp_def, Nat.succ_eq_add_one, hweight]

/-! The bits of `le` and the elements of `bytesLe64` -/

/-- Bit `i` of `le` is bit `i % 8` of byte `i / 8` (R12). -/
theorem getLsbD_le (bs : List Byte) {i : Nat} (hi : i < 64) :
    (le bs).getLsbD i = (bs.getD (i / 8) 0).getLsbD (i % 8) := by
  induction bs generalizing i with
  | nil => simp only [le, List.getD_nil, BitVec.ofNat_eq_ofNat, BitVec.getLsbD_zero]
  | cons b bs ih =>
    rw [le, BitVec.getLsbD_or, BitVec.zeroExtend_eq_setWidth, BitVec.getLsbD_setWidth,
      BitVec.getLsbD_shiftLeft]
    by_cases hlow : i < 8
    · rw [Nat.div_eq_of_lt hlow, Nat.mod_eq_of_lt hlow, List.getD_cons_zero]
      simp only [hi, hlow, decide_true, Bool.true_and, Bool.not_true, Bool.and_false,
        Bool.false_and, Bool.or_false]
    · obtain ⟨j, rfl⟩ : ∃ j, i = j + 8 := ⟨i - 8, by omega⟩
      have hhigh : b.getLsbD (j + 8) = false := b.getLsbD_of_ge _ (by omega)
      rw [hhigh, Nat.add_sub_cancel, ih (show j < 64 by omega), Nat.add_div_right j (by decide),
        Nat.add_mod_right, List.getD_cons_succ]
      simp only [hi, hlow, decide_true, decide_false, Bool.true_and, Bool.not_false,
        Bool.and_false, Bool.false_or]

@[simp] theorem length_bytesLe64 (x : Word) : (bytesLe64 x).length = 8 := rfl

@[simp] theorem getElem_bytesLe64 (x : Word) {i : Nat} (hi : i < (bytesLe64 x).length) :
    (bytesLe64 x)[i] = x.extractLsb' (8 * i) 8 := by
  simp only [bytesLe64, List.getElem_map, List.getElem_range, BitVec.truncate_eq_setWidth,
    BitVec.setWidth_ushiftRight_eq_extractLsb]

theorem getElem?_bytesLe64 (x : Word) {i : Nat} (hi : i < 8) :
    (bytesLe64 x)[i]? = some (x.extractLsb' (8 * i) 8) := by
  rw [List.getElem?_eq_getElem (length_bytesLe64 x ▸ hi), getElem_bytesLe64]

/-! The two byte orders undo each other -/

@[simp] theorem le_bytesLe64 (x : Word) : le (bytesLe64 x) = x := by
  apply BitVec.eq_of_getLsbD_eq
  intro i hi
  have hbyte : (bytesLe64 x).getD (i / 8) 0 = x.extractLsb' (8 * (i / 8)) 8 := by
    rw [List.getD_eq_getElem?_getD, getElem?_bytesLe64 x (by omega), Option.getD_some]
  rw [getLsbD_le _ hi, hbyte, BitVec.getLsbD_extractLsb', Nat.div_add_mod]
  rw [decide_eq_true (Nat.mod_lt i (by decide)), Bool.true_and]

theorem bytesLe64_le {bs : List Byte} (h : bs.length = 8) : bytesLe64 (le bs) = bs := by
  apply List.ext_getElem (by rw [length_bytesLe64, h])
  intro k hk hk'
  apply BitVec.eq_of_getLsbD_eq
  intro j hj
  have hword : 8 * k + j < 64 := by omega
  have hdiv : (8 * k + j) / 8 = k := by omega
  have hmod : (8 * k + j) % 8 = j := by omega
  rw [getElem_bytesLe64, BitVec.getLsbD_extractLsb', getLsbD_le _ hword, hdiv, hmod]
  rw [decide_eq_true hj, Bool.true_and, List.getD_eq_getElem?_getD, List.getElem?_eq_getElem hk',
    Option.getD_some]

/-- Settles O12: the sum is by induction on the bytes, the inverse laws by comparing bits. -/
theorem littleEndian : Obligations.LittleEndian :=
  ⟨fun _ h => toNat_le_eq_sum h, le_bytesLe64,
    fun x => ⟨length_bytesLe64 x, fun _ hi => getElem?_bytesLe64 x hi⟩,
    fun _ h => bytesLe64_le h⟩

end Sys2Proof.Machine

/-! The state after reset (R34). -/

namespace Sys2Proof.Machine

/-- Settles O1: `State.reset` is a closed record, and each row of R34's table is the value of one of
its fields. -/
theorem resetState : Obligations.ResetState :=
  ⟨rfl, rfl, rfl, rfl, rfl, rfl, rfl, rfl, rfl, rfl, rfl, rfl, rfl⟩

end Sys2Proof.Machine

/-! The command opcode map (R74): what a descriptor of the right length decodes to, and the opcodes that
are no command. -/

namespace Sys2Proof

/-- Exactly these opcodes select no command (R74, R93). -/
theorem decodeOp_eq_none_iff {p : Params} {op : Nat} :
    decodeOp p op = none ↔ op = 0x00 ∨ 0x05 ≤ op ∨ (op = 0x02 ∧ p.hasKeyread = false) := by
  constructor
  · intro hnone
    have hne (c : Cmd) (hc : c = .keyread → p.hasKeyread = true) : op ≠ c.op := by
      rintro rfl
      rw [decodeOp_of_op hc] at hnone
      cases hnone
    have h1 := hne .keyload nofun
    have h3 := hne .hash nofun
    have h4 := hne .hashr nofun
    simp only [Cmd.op] at h1 h3 h4
    by_cases hop : op = 0x02
    · exact .inr (.inr ⟨hop, Bool.eq_false_iff.2 fun hk => hne .keyread (fun _ => hk) hop⟩)
    · have hrange : op = 0x00 ∨ 0x05 ≤ op := by omega
      exact hrange.imp_right .inl
  · rintro (rfl | hop | ⟨rfl, hk⟩)
    · rfl
    · simp only [decodeOp, show op ≠ 1 by omega, show op ≠ 2 by omega, show op ≠ 3 by omega,
        show op ≠ 4 by omega, if_false]
    · simp only [decodeOp, hk]
      rfl

/-- A descriptor whose opcode is that of an implemented command decodes to it, with its own fields. -/
theorem decodeReq_of_op {p : Params} {desc : Nat} {c : Cmd} (data : Memory)
    (hlen : desc < 2 ^ p.reqBits) (hop : desc % 256 = c.op)
    (hc : c = .keyread → p.hasKeyread = true) :
    decodeReq p desc data = .ok (c.instr (reqFields p desc) data) := by
  simp only [decodeReq, decodeCmd_of_lt hlen, hop, decodeOp_of_op hc]

/-- A descriptor whose opcode selects no command is rejected, whatever else it holds. -/
theorem decodeReq_of_decodeOp_none {p : Params} {desc : Nat} (data : Memory)
    (hlen : desc < 2 ^ p.reqBits) (hop : decodeOp p (desc % 256) = none) :
    decodeReq p desc data = .error (.illegalOpcode (desc % 256)) := by
  simp only [decodeReq, decodeCmd_of_lt hlen, hop]

end Sys2Proof

namespace Sys2Proof.Machine

/-- Settles O9: each implemented opcode is `Cmd.op` of its command, and the others are those
`decodeOp_eq_none_iff` lists. -/
theorem opcodeMap : Obligations.OpcodeMap := by
  intro p desc data hlen
  refine ⟨fun hop => decodeReq_of_op (c := .keyload) data hlen hop nofun,
    fun hop hk => decodeReq_of_op (c := .keyread) data hlen hop fun _ => hk,
    fun hop hk => ?keyreadMissing,
    fun hop => decodeReq_of_op (c := .hash) data hlen hop nofun,
    fun hop => decodeReq_of_op (c := .hashr) data hlen hop nofun,
    fun hop => decodeReq_of_decodeOp_none data hlen (decodeOp_eq_none_iff.2 (by omega))⟩
  case keyreadMissing =>
    rw [decodeReq_of_decodeOp_none data hlen (decodeOp_eq_none_iff.2 (.inr (.inr ⟨hop, hk⟩))), hop]

end Sys2Proof.Machine

/-! The response descriptor (R76): its low byte of flags, its payload, and a key's bytes in it. -/

namespace Sys2Proof

/-- The flags of a response descriptor, its bits 7:0 (R76): `{zero[2:0], keyv, tagv, err[2:0]}`. -/
def Response.flags (r : Response) : BitVec 8 :=
  (0 : BitVec 3) ++ BitVec.ofBool r.keyv ++ BitVec.ofBool r.tagv ++ BitVec.ofNat 3 r.err

@[simp] theorem Response.flags_okTag (t : Word) : (Response.okTag t).flags = 0x08 := by
  simp only [Response.flags, Response.keyv, Response.tagv, Response.err]
  decide

@[simp] theorem Response.flags_okKey (k : List Byte) : (Response.okKey k).flags = 0x10 := by
  simp only [Response.flags, Response.keyv, Response.tagv, Response.err]
  decide

theorem Response.encode_eq_payload_append_flags (r : Response) : r.encode = r.payload ++ r.flags := by
  simp only [Response.encode, Response.flags, BitVec.append_assoc, BitVec.cast_eq]

@[simp] theorem Response.extractLsb'_encode_flags (r : Response) :
    r.encode.extractLsb' 0 8 = r.flags := by
  rw [r.encode_eq_payload_append_flags, BitVec.extractLsb'_append_eq_right]

/-- Above the flags stands the payload. -/
theorem Response.extractLsb'_encode_payload (r : Response) (lo n : Nat) :
    r.encode.extractLsb' (lo + 8) n = r.payload.extractLsb' lo n := by
  rw [r.encode_eq_payload_append_flags, BitVec.extractLsb'_append_eq_of_le (Nat.le_add_left 8 lo),
    Nat.add_sub_cancel]

/-- A key's number has eight bits for each of its bytes. -/
theorem keyNumber_lt (k : List Byte) : keyNumber k < 2 ^ (8 * k.length) := by
  induction k with
  | nil => exact Nat.one_pos
  | cons b bs ih =>
    rw [List.length_cons, Nat.mul_add_one, Nat.add_comm, Nat.pow_add]
    exact pack_lt b.isLt ih

/-- Byte `i` of a key's number is byte `i` of the key (R76). -/
theorem keyNumber_byte {k : List Byte} {i : Nat} {b : Byte} (h : k[i]? = some b) :
    keyNumber k / 2 ^ (8 * i) % 2 ^ 8 = b.toNat := by
  induction k generalizing i with
  | nil => cases h
  | cons c cs ih =>
    have hc : c.toNat < 2 ^ 8 := c.isLt
    cases i with
    | zero =>
      cases h
      rw [keyNumber]
      omega
    | succ j =>
      have hrest : (c.toNat + 2 ^ 8 * keyNumber cs) / 2 ^ 8 = keyNumber cs := by omega
      rw [Nat.mul_add_one, Nat.add_comm, Nat.pow_add, ← Nat.div_div_eq_div_mul, keyNumber, hrest]
      exact ih h

/-- A tag fills the low half of the payload. -/
theorem Response.extractLsb'_payload_okTag (t : Word) :
    (Response.okTag t).payload.extractLsb' 0 64 = t ∧
    (Response.okTag t).payload.extractLsb' 64 64 = 0 := by
  constructor
  · exact (BitVec.extractLsb'_setWidth_of_le (by decide)).trans BitVec.extractLsb'_eq_self
  · apply BitVec.eq_of_toNat_eq
    rw [Response.payload, BitVec.extractLsb'_toNat, BitVec.zeroExtend_eq_setWidth,
      BitVec.toNat_setWidth_of_le (by decide), Nat.shiftRight_eq_div_pow,
      Nat.div_eq_of_lt t.isLt]
    rfl

/-- Byte `i` of a key is byte `i` of the payload. -/
theorem Response.extractLsb'_payload_okKey {k : List Byte} (hk : k.length = 16) {i : Nat} {b : Byte}
    (h : k[i]? = some b) : (Response.okKey k).payload.extractLsb' (8 * i) 8 = b := by
  have hfit : keyNumber k < 2 ^ 128 := by
    simpa only [hk] using keyNumber_lt k
  apply BitVec.eq_of_toNat_eq
  rw [Response.payload, BitVec.extractLsb'_toNat, BitVec.toNat_ofNat, Nat.mod_eq_of_lt hfit,
    Nat.shiftRight_eq_div_pow, keyNumber_byte h]

end Sys2Proof

namespace Sys2Proof.Machine

/-- Settles O11: the low byte is the flags, a tag and a key's bytes are read off the payload, and the
descriptors without a payload are closed numbers. -/
theorem responseLayout : Obligations.ResponseLayout := by
  refine ⟨fun t => ?tag, fun k hk => ⟨?keyFlags, fun i b h => ?keyByte⟩,
    by decide, by decide, by decide, by decide, by decide, by decide⟩
  case tag =>
    obtain ⟨hlow, hhigh⟩ := Response.extractLsb'_payload_okTag t
    exact ⟨(Response.okTag t).extractLsb'_encode_flags.trans (Response.flags_okTag t),
      ((Response.okTag t).extractLsb'_encode_payload 0 64).trans hlow,
      ((Response.okTag t).extractLsb'_encode_payload 64 64).trans hhigh⟩
  case keyFlags =>
    exact (Response.okKey k).extractLsb'_encode_flags.trans (Response.flags_okKey k)
  case keyByte =>
    rw [Response.extractLsb'_encode_payload, Response.extractLsb'_payload_okKey hk h]

end Sys2Proof.Machine

/-! The fields a command does not use (R75). -/

namespace Sys2Proof.Machine

/-- The operand assembly of the buffer reads `pres` and `blen` only. -/
theorem withBuffer_off_cnt (q : ReqFields) (off cnt : Int) (data : Memory) (k : Option Memory → Out) :
    withBuffer { q with off := off, cnt := cnt } data k = withBuffer q data k := rfl

theorem keyloadCommand_off_cnt (q : ReqFields) (off cnt : Int) (data : Memory) (s : State) :
    keyloadCommand { q with off := off, cnt := cnt } data s = keyloadCommand q data s :=
  withBuffer_off_cnt q off cnt data _

theorem hashCommand_off_cnt (tgt : RomIndex) (q : ReqFields) (off cnt : Int) (data : Memory)
    (s : State) :
    hashCommand tgt { q with off := off, cnt := cnt } data s = hashCommand tgt q data s :=
  withBuffer_off_cnt q off cnt data _

/-- Settles O24: KEYLOAD and HASH use the fields only through `withBuffer`, KEYREAD has no operand. -/
theorem unusedFieldsIgnored : Obligations.UnusedFieldsIgnored := by
  intro q data data' off cnt q' s
  refine ⟨?keyload, ?hash, ?keyread⟩
  case keyload => simp only [exec, execKeyload, keyloadCommand_off_cnt]
  case hash => simp only [exec, execHash, hashCommand_off_cnt]
  case keyread => rfl

end Sys2Proof.Machine


/-! The commands of the idle engine: KEYLOAD (R90), KEYREAD (R92, R93) and the answer to an opcode that
is no command (R97). -/

namespace Sys2Proof.Machine

variable {s : State}

/-! What runs while `UPC` is 0 -/

theorem exec_keyload_of_idle (hidle : s.upc = 0) (q : ReqFields) (data : Memory) :
    exec (.keyload q data) s = keyloadCommand q data s := if_pos hidle

theorem exec_keyread_of_idle (hidle : s.upc = 0) (q : ReqFields) (data : Memory) :
    exec (.keyread q data) s = keyreadCommand s := if_pos hidle

/-- ROM word 0 is IDLE with the entry of the hashing micro-program as its target (R111). -/
theorem step_of_idle (hidle : s.upc = 0) : step s = execIdle hashEntry s := by
  have hfetch : fetch s = .ok (.idle hashEntry) := by
    rw [fetch, hidle]
    rfl
  rw [step, hfetch]
  rfl

/-- A step of the idle engine handles the request it accepts (R110, R112). -/
theorem step_of_accepts {o : Offer} {rest : List Offer} (hidle : s.upc = 0)
    (haccepts : s.Accepts o rest) : step s = handleOffer hashEntry o (s.accept rest) :=
  (step_of_idle hidle).trans (execIdle_of_accepts hidle haccepts)

/-- An opcode that selects no command is answered before anything else of the request is looked at. -/
theorem handleOffer_of_decodeOp_none {tgt : RomIndex} {o : Offer}
    (hlen : o.desc < 2 ^ s.cfg.reqBits) (hop : decodeOp s.cfg (o.desc % 256) = none) :
    handleOffer tgt o s = .next (s.respond (.error .illegalCommand)) := by
  have hillegal : decodeCmd s.cfg o.desc = .error (.illegalOpcode (o.desc % 256)) := by
    rw [decodeCmd_of_lt hlen, hop]
  rw [handleOffer, hillegal]
  rfl

/-! The statements -/

/-- Settles O16: the two outcomes of `keyloadCommand_next`, an honest buffer having `blen` bytes. -/
theorem keyloadLoadsOrRejects : Obligations.KeyloadLoadsOrRejects := by
  intro q data s hidle hhonest
  rw [exec_keyload_of_idle hidle]
  refine ⟨fun hpres hlen => ?loaded, fun hbad => ?rejected⟩
  case loaded =>
    exact keyloadCommand_next.2 (.inl ⟨hpres, hhonest hpres, hlen, rfl⟩)
  case rejected =>
    have hreason : q.pres = false ∨ (data.len = q.blen ∧ q.blen ≠ 16) := by
      cases hpres : q.pres with
      | false => exact .inl rfl
      | true => exact .inr ⟨hhonest hpres, hbad.resolve_left (by rw [hpres]; decide)⟩
    exact keyloadCommand_next.2 (.inr ⟨hreason, rfl⟩)

/-- Settles O17: the three outcomes of `keyreadCommand_next`. -/
theorem keyreadAnswersKey : Obligations.KeyreadAnswersKey := by
  intro q data s hidle
  rw [exec_keyread_of_idle hidle]
  refine ⟨fun hmissing => ?illegal, fun hexists hnoKey => ?noKey,
    fun b0 b1 hexists hkey hb0 hb1 => ?answered⟩
  case illegal => exact keyreadCommand_next.2 (.inl ⟨hmissing, rfl⟩)
  case noKey => exact keyreadCommand_next.2 (.inr (.inl ⟨hexists, hnoKey, rfl⟩))
  case answered =>
    exact keyreadCommand_next.2 (.inr (.inr ⟨hexists, hkey, b0, b1, hb0, hb1, rfl⟩))

/-- Settles O21: the one request on offer is accepted, and its opcode is one of those
`decodeOp_eq_none_iff` lists. -/
theorem illegalOpcodeAnswered : Obligations.IllegalOpcodeAnswered := by
  intro s o hidle honly hlen hop
  rw [step_of_accepts hidle (State.accepts_singleton honly)]
  exact handleOffer_of_decodeOp_none hlen (decodeOp_eq_none_iff.2 hop)

end Sys2Proof.Machine

/-! The sequencer: the micro-program ROM (R111) and the loop test (R113). -/

namespace Sys2Proof.Machine

/-- Settles O7: the ROM is a closed table, and the decoder evaluates each of its words. -/
theorem romListing : Obligations.RomListing := ⟨rfl, rfl⟩

/-- Settles O30: the two branches of `execTest_next`, `END - PTR` being compared without subtracting. -/
theorem testBranches : Obligations.TestBranches := by
  intro tgt s p e hptr hendp
  refine ⟨fun hfull k hk => ?blockLeft, fun hshort => ?tailLeft⟩
  case blockLeft =>
    have hblock : p + 8 ≤ e := by omega
    have hindex : s.upc.val + 1 < 19 := hk ▸ k.isLt
    have hnext : k = ⟨s.upc.val + 1, hindex⟩ := Fin.ext hk
    subst hnext
    exact execTest_next.2 ⟨e, p, hendp, hptr, .inl ⟨hblock, hindex, rfl⟩⟩
  case tailLeft =>
    have htail : e < p + 8 := by omega
    exact execTest_next.2 ⟨e, p, hendp, hptr, .inr ⟨htail, rfl⟩⟩

end Sys2Proof.Machine

/-! The block loader (R127). -/

namespace Sys2Proof.Machine

/-- Settles O32: under R127's precondition, and with END within the buffer, the read that
`execLdfin_next` asks for succeeds and answers the trailing bytes, by `memRead_eq_slice`. -/
theorem ldfinBuildsFinalBlock : Obligations.LdfinBuildsFinalBlock := by
  intro tgt s b p e l hbuf hptr hendp hlenb hle hshort hend
  have hread : memRead b p (e - p) = some (((memBytes b).drop p).take (e - p)) :=
    memRead_eq_slice (by omega)
  exact execLdfin_next.2 ⟨b, p, e, l, _, hbuf, hptr, hendp, hlenb, hle, hshort, hread, rfl⟩

end Sys2Proof.Machine

/-! The mixing datapath (R136 to R141). Each statement gives the values of the registers its
micro-operation reads, so that operation's law in Laws/Exec.lean names the next state. -/

namespace Sys2Proof.Machine

/-! The round function in its closed form (R135) -/

/-- R9's formula is the library's rotation for the amounts R9 allows, and for 0 too. -/
theorem rotl64_eq_rotateLeft (x : Word) {n : Nat} (h : n < 64) : rotl64 x n = x.rotateLeft n := by
  rw [BitVec.rotateLeft_def, Nat.mod_eq_of_lt h, rotl64]

/-- R135's listing with each word it writes given by the four words read, as R138 applies it. -/
theorem sipRound_eq_rotateLeft (q : Quad) :
    let b0 := q.v0 + q.v1
    let b2 := q.v2 + q.v3
    let c1 := q.v1.rotateLeft 13 ^^^ b0
    let c3 := q.v3.rotateLeft 16 ^^^ b2
    let d0 := b0.rotateLeft 32 + c3
    let d2 := b2 + c1
    sipRound q =
      { v0 := d0, v1 := c1.rotateLeft 17 ^^^ d2, v2 := d2.rotateLeft 32
        v3 := c3.rotateLeft 21 ^^^ d0 } := by
  simp only [sipRound, rotl64_eq_rotateLeft, Nat.reduceLT]

/-! The statements -/

/-- Settles O35: the two constants of `initV` are R136's literals. -/
theorem loadvCreatesWorkingState : Obligations.LoadvCreatesWorkingState := by
  intro tgt s b0 b1 hb0 hb1
  exact execLoadv_next.2 ⟨b0, b1, hb0, hb1, rfl⟩

/-- Settles O36: `v[3]` and `M` are the two operands of `execInj3_next`. -/
theorem inj3InjectsBlock : Obligations.Inj3InjectsBlock := by
  intro tgt s x m hv3 hm
  exact execInj3_next.2 ⟨x, m, hv3, hm, rfl⟩

/-- Settles O37: the four words are read as one quadruple, and the round function of that quadruple
is R135's closed form. -/
theorem roundAppliesSipRound : Obligations.RoundAppliesSipRound := by
  intro tgt s a0 a1 a2 a3 hv0 hv1 hv2 hv3
  refine execRound_next.2 ⟨⟨a0, a1, a2, a3⟩, hv0, hv1, hv2, hv3, ?_⟩
  rw [sipRound_eq_rotateLeft]
  rfl

/-- Settles O38: `v[0]` and `M` are the two operands of `execInj0_next`. -/
theorem inj0InjectsBlock : Obligations.Inj0InjectsBlock := by
  intro tgt s x m hv0 hm
  exact execInj0_next.2 ⟨x, m, hv0, hm, rfl⟩

/-- Settles O39: `finMark` is R140's literal. -/
theorem markSeparatesFinalization : Obligations.MarkSeparatesFinalization := by
  intro tgt s x hv2
  exact execMark_next.2 ⟨x, hv2, rfl⟩

/-- Settles O40: the tag is `foldV` of the four words, answered before `State.release` discards
them. -/
theorem foldAnswersTag : Obligations.FoldAnswersTag := by
  intro tgt s a0 a1 a2 a3 hv0 hv1 hv2 hv3
  exact execFold_next.2 ⟨⟨a0, a1, a2, a3⟩, hv0, hv1, hv2, hv3, rfl⟩

end Sys2Proof.Machine

/-! The errors (R178, R179): the command an accepted request's opcode selects, and the precondition
that each of R178's four ranks finds broken, the earlier ones being met. -/

namespace Sys2Proof

/-- A descriptor whose opcode is that of an implemented command selects it. -/
theorem decodeCmd_of_op {p : Params} {desc : Nat} {c : Cmd} (hlen : desc < 2 ^ p.reqBits)
    (hop : desc % 256 = c.op) (hc : c = .keyread → p.hasKeyread = true) :
    decodeCmd p desc = .ok c := by
  rw [decodeCmd_of_lt hlen, hop, decodeOp_of_op hc]

end Sys2Proof

namespace Sys2Proof.Machine

variable {s : State} {o : Offer} {tgt : RomIndex}

/-! What an accepted request runs, by its opcode (R74, R112) -/

theorem handleOffer_of_keyload (hlen : o.desc < 2 ^ s.cfg.reqBits) (hop : o.desc % 256 = 0x01) :
    handleOffer tgt o s = keyloadCommand (reqFields s.cfg o.desc) o.data s := by
  rw [handleOffer, decodeCmd_of_op (c := .keyload) hlen hop nofun]

theorem handleOffer_of_keyread (hlen : o.desc < 2 ^ s.cfg.reqBits) (hop : o.desc % 256 = 0x02)
    (hexists : s.cfg.hasKeyread = true) : handleOffer tgt o s = keyreadCommand s := by
  rw [handleOffer, decodeCmd_of_op (c := .keyread) hlen hop fun _ => hexists]

theorem handleOffer_of_hash (hlen : o.desc < 2 ^ s.cfg.reqBits) (hop : o.desc % 256 = 0x03) :
    handleOffer tgt o s = hashCommand tgt (reqFields s.cfg o.desc) o.data s := by
  rw [handleOffer, decodeCmd_of_op (c := .hash) hlen hop nofun]

theorem handleOffer_of_hashr (hlen : o.desc < 2 ^ s.cfg.reqBits) (hop : o.desc % 256 = 0x04) :
    handleOffer tgt o s = hashrCommand tgt (reqFields s.cfg o.desc) o.data s := by
  rw [handleOffer, decodeCmd_of_op (c := .hashr) hlen hop nofun]

/-! The ranks of R178 after IllegalCommand, which `handleOffer_of_decodeOp_none` answers -/

/-- The three commands that need a key test for it before they look at their operands. -/
theorem handleOffer_noKey (hhonest : o.Honest s.cfg)
    (hop : (o.desc % 256 = 0x02 ∧ s.cfg.hasKeyread = true) ∨ o.desc % 256 = 0x03 ∨
      o.desc % 256 = 0x04) (hnoKey : s.keyvalid = false) :
    handleOffer tgt o s = .next (s.respond (.error .noKey)) := by
  obtain ⟨hlen, hdata⟩ := hhonest
  obtain ⟨hop, hexists⟩ | hop | hop := hop
  case inl =>
    rw [handleOffer_of_keyread hlen hop hexists]
    exact keyreadCommand_next.2 (.inr (.inl ⟨hexists, hnoKey, rfl⟩))
  case inr.inl =>
    rw [handleOffer_of_hash hlen hop]
    exact hashCommand_next.2 ⟨hdata, .inl ⟨hnoKey, rfl⟩⟩
  case inr.inr =>
    rw [handleOffer_of_hashr hlen hop]
    exact hashrCommand_next.2 ⟨hdata, .inl ⟨hnoKey, rfl⟩⟩

/-- Under a key, the two hashing commands test for a message before its range. -/
theorem handleOffer_nullMessage (hhonest : o.Honest s.cfg)
    (hop : o.desc % 256 = 0x03 ∨ o.desc % 256 = 0x04) (hkey : s.keyvalid = true)
    (habsent : (reqFields s.cfg o.desc).pres = false) :
    handleOffer tgt o s = .next (s.respond (.error .nullMessage)) := by
  obtain ⟨hlen, hdata⟩ := hhonest
  obtain hop | hop := hop
  case inl =>
    rw [handleOffer_of_hash hlen hop]
    exact hashCommand_next.2 ⟨hdata, .inr (.inl ⟨hkey, habsent, rfl⟩)⟩
  case inr =>
    rw [handleOffer_of_hashr hlen hop]
    exact hashrCommand_next.2 ⟨hdata, .inr (.inl ⟨hkey, habsent, rfl⟩)⟩

/-- KEYLOAD looks at its buffer only, whatever KEYVALID is. -/
theorem handleOffer_invalidKeyLength (hidle : s.upc = 0) (hhonest : o.Honest s.cfg)
    (hop : o.desc % 256 = 0x01)
    (hbad : (reqFields s.cfg o.desc).pres = false ∨ (reqFields s.cfg o.desc).blen ≠ 16) :
    handleOffer tgt o s = .next (s.respond (.error .invalidKeyLength)) := by
  obtain ⟨hlen, hdata⟩ := hhonest
  obtain ⟨-, hrejects⟩ := keyloadLoadsOrRejects _ _ s hidle hdata
  rw [handleOffer_of_keyload hlen hop, ← exec_keyload_of_idle hidle]
  exact hrejects hbad

/-- Under a key and with a message, HASHR compares its range with the buffer, of `blen` bytes. -/
theorem handleOffer_invalidRange (hhonest : o.Honest s.cfg) (hop : o.desc % 256 = 0x04)
    (hkey : s.keyvalid = true) (hpres : (reqFields s.cfg o.desc).pres = true)
    (hbad : (reqFields s.cfg o.desc).off < 0 ∨ (reqFields s.cfg o.desc).cnt < 0 ∨
      (reqFields s.cfg o.desc).off + (reqFields s.cfg o.desc).cnt >
        (reqFields s.cfg o.desc).blen) :
    handleOffer tgt o s = .next (s.respond (.error .invalidRange)) := by
  obtain ⟨hlen, hdata⟩ := hhonest
  rw [← hdata hpres] at hbad
  rw [handleOffer_of_hashr hlen hop]
  exact hashrCommand_next.2 ⟨hdata, .inr (.inr (.inl ⟨hkey, hpres, hbad, rfl⟩))⟩

/-! The statements -/

/-- Settles O22: the one request on offer is accepted, and the lemma of the first rank it breaks gives
the answer. -/
theorem errorPriority : Obligations.ErrorPriority := by
  intro s o e hidle honly hhonest hbroken
  rw [step_of_accepts hidle (State.accepts_singleton honly)]
  obtain ⟨hillegal, rfl⟩ | ⟨hlegal, hop, hnoKey, rfl⟩ | ⟨-, hop, hkey, habsent, rfl⟩ |
    ⟨-, ⟨hop, hbad⟩, rfl⟩ | ⟨-, ⟨hop, hbad⟩, hkey, hpres, rfl⟩ := hbroken
  · exact handleOffer_of_decodeOp_none hhonest.1 (decodeOp_eq_none_iff.2 hillegal)
  · have hexists (h2 : o.desc % 256 = 0x02) : s.cfg.hasKeyread = true :=
      Bool.of_not_eq_false fun hmissing => hlegal (.inr (.inr ⟨h2, hmissing⟩))
    exact handleOffer_noKey hhonest (hop.imp_left fun h2 => ⟨h2, hexists h2⟩) hnoKey
  · exact handleOffer_nullMessage hhonest hop hkey habsent
  · exact handleOffer_invalidKeyLength hidle hhonest hop hbad
  · exact handleOffer_invalidRange hhonest hop hkey hpres hbad

/-- Settles O23: `raiseError` is `State.respond`, and an error response carries its code alone. -/
theorem errorEntry : Obligations.ErrorEntry :=
  fun e s => ⟨raiseError_eq e s, rfl, rfl, rfl, rfl⟩

end Sys2Proof.Machine

/-! Reset (R190, R192): what the event leaves, and that nothing else clears KEYVALID. -/

namespace Sys2Proof.Machine

@[simp] theorem hostMove_reset (s : State) : hostMove .reset s = resetEvent s := rfl

@[simp] theorem hostMove_offer (o : Offer) (s : State) : hostMove (.offer o) s = offerRequest o s := rfl

/-- A step runs the micro-instruction it fetches (R110). -/
theorem step_next {s t : State} :
    step s = .next t ↔ ∃ i, fetch s = .ok i ∧ exec i s = .next t := by
  unfold step
  cases fetch s <;> simp

/-! No command and no micro-operation takes the key away. KEYLOAD is the only one that writes KEYVALID,
and it sets it (R22). -/

section KeyInForce

variable {s t : State} (hkey : s.keyvalid = true)
include hkey

theorem keyloadCommand_keeps_key {q : ReqFields} {data : Memory}
    (h : keyloadCommand q data s = .next t) : t.keyvalid = true := by
  obtain ⟨-, -, -, rfl⟩ | ⟨-, rfl⟩ := keyloadCommand_next.1 h
  · rfl
  · exact hkey

theorem keyreadCommand_keeps_key (h : keyreadCommand s = .next t) : t.keyvalid = true := by
  obtain ⟨-, rfl⟩ | ⟨-, -, rfl⟩ | ⟨-, -, -, -, -, -, rfl⟩ := keyreadCommand_next.1 h <;> exact hkey

theorem hashCommand_keeps_key {tgt : RomIndex} {q : ReqFields} {data : Memory}
    (h : hashCommand tgt q data s = .next t) : t.keyvalid = true := by
  obtain ⟨-, ⟨-, rfl⟩ | ⟨-, -, rfl⟩ | ⟨-, -, rfl⟩⟩ := hashCommand_next.1 h <;> exact hkey

theorem hashrCommand_keeps_key {tgt : RomIndex} {q : ReqFields} {data : Memory}
    (h : hashrCommand tgt q data s = .next t) : t.keyvalid = true := by
  obtain ⟨-, ⟨-, rfl⟩ | ⟨-, -, rfl⟩ | ⟨-, -, -, rfl⟩ | ⟨-, -, -, rfl⟩⟩ := hashrCommand_next.1 h <;>
    exact hkey

/-- A command given alone runs in the idle engine; a busy one leaves the request where it is (R112). -/
theorem command_keeps_key {run : Out} (hrun : run = .next t → t.keyvalid = true)
    (h : (if s.upc = 0 then run else .next s) = .next t) : t.keyvalid = true := by
  split at h
  · exact hrun h
  · cases h
    exact hkey

theorem handleOffer_keeps_key {tgt : RomIndex} {o : Offer}
    (h : handleOffer tgt o s = .next t) : t.keyvalid = true := by
  obtain ⟨-, h⟩ | ⟨-, h⟩ | ⟨-, h⟩ | ⟨-, h⟩ | ⟨-, rfl⟩ := handleOffer_next.1 h
  · exact keyloadCommand_keeps_key hkey h
  · exact keyreadCommand_keeps_key hkey h
  · exact hashCommand_keeps_key hkey h
  · exact hashrCommand_keeps_key hkey h
  · exact hkey

theorem execIdle_keeps_key {tgt : RomIndex} (h : execIdle tgt s = .next t) : t.keyvalid = true := by
  obtain ⟨-, rfl⟩ | ⟨-, -, rfl⟩ | ⟨-, o, rest, -, h⟩ := execIdle_next.1 h
  · exact hkey
  · exact hkey
  · have haccepted : (s.accept rest).keyvalid = true := hkey
    exact handleOffer_keeps_key haccepted h

/-- No instruction clears KEYVALID, a request's command no more than a micro-operation (R190). -/
theorem exec_keeps_key {i : Instr} (h : exec i s = .next t) : t.keyvalid = true := by
  cases i with
  | keyload q data => exact command_keeps_key hkey (keyloadCommand_keeps_key hkey) h
  | keyread q data => exact command_keeps_key hkey (keyreadCommand_keeps_key hkey) h
  | hash q data => exact command_keeps_key hkey (hashCommand_keeps_key hkey) h
  | hashr q data => exact command_keeps_key hkey (hashrCommand_keeps_key hkey) h
  | idle tgt => exact execIdle_keeps_key hkey h
  | loadv tgt =>
    obtain ⟨b0, b1, -, -, rfl⟩ := execLoadv_next.1 h
    exact hkey
  | test tgt =>
    obtain ⟨e, p, -, -, ⟨-, -, rfl⟩ | ⟨-, rfl⟩⟩ := execTest_next.1 h <;> exact hkey
  | ldblk tgt =>
    obtain ⟨b, p, bs, -, -, -, rfl⟩ := execLdblk_next.1 h
    exact hkey
  | ldfin tgt =>
    obtain ⟨b, p, e, l, bs, -, -, -, -, -, -, -, rfl⟩ := execLdfin_next.1 h
    exact hkey
  | inj3 tgt =>
    obtain ⟨a, m, -, -, rfl⟩ := execInj3_next.1 h
    exact hkey
  | round tgt =>
    obtain ⟨q, -, -, -, -, rfl⟩ := execRound_next.1 h
    exact hkey
  | inj0 tgt =>
    obtain ⟨a, m, -, -, rfl⟩ := execInj0_next.1 h
    exact hkey
  | mark tgt =>
    obtain ⟨a, -, rfl⟩ := execMark_next.1 h
    exact hkey
  | fold tgt =>
    obtain ⟨q, -, -, -, -, rfl⟩ := execFold_next.1 h
    exact hkey

theorem step_keeps_key (h : step s = .next t) : t.keyvalid = true := by
  obtain ⟨i, -, hexec⟩ := step_next.1 h
  exact exec_keeps_key hkey hexec

end KeyInForce

/-- Settles O3: the event's register laws hold of every state, whatever UPC is; a step keeps the key by
`step_keeps_key`, and an offer changes no register. -/
theorem resetAbandonsRun : Obligations.ResetAbandonsRun := by
  refine ⟨fun s => ?reset, fun s t hmove hkey => ?otherMoves⟩
  case reset => simp
  case otherMoves =>
    obtain hstep | ⟨o, rfl⟩ := hmove
    · exact step_keeps_key hkey hstep
    · rwa [hostMove_offer, offerRequest_keyvalid]

end Sys2Proof.Machine

/-! The bit formats (R71, R72, R78): reading one field of packed fields, and the round trips. -/

namespace Sys2Proof

/-! Fields side by side: `a + 2 ^ n * b` holds `a` in its low `n` bits and `b` above them. -/

/-- The low field. -/
theorem bitField_pack_low {a n : Nat} (b : Nat) (ha : a < 2 ^ n) : bitField (a + 2 ^ n * b) 0 n = a := by
  rw [bitField, Nat.pow_zero, Nat.div_one, Nat.add_mul_mod_self_left, Nat.mod_eq_of_lt ha]

/-- A field above the low one. -/
theorem bitField_pack_high {a n : Nat} (b lo w : Nat) (ha : a < 2 ^ n) :
    bitField (a + 2 ^ n * b) (n + lo) w = bitField b lo w := by
  rw [bitField, bitField, Nat.pow_add, ← Nat.div_div_eq_div_mul,
    Nat.add_mul_div_left _ _ (Nat.two_pow_pos n), Nat.div_eq_of_lt ha, Nat.zero_add]

/-- A field that ends where the number ends. -/
theorem bitField_of_lt {a n : Nat} (ha : a < 2 ^ n) : bitField a 0 n = a := by
  rw [bitField, Nat.pow_zero, Nat.div_one, Nat.mod_eq_of_lt ha]

/-- The sign extension of an integer's pattern is the integer (R13, R72). -/
theorem sext_twos {n : Nat} {x : Int} (hn : 1 ≤ n) (hx : FitsSigned n x) : sext n (twos n x) = x := by
  obtain ⟨hlow, hhigh⟩ := hx
  have hpow : (2 : Int) ^ n = 2 * 2 ^ (n - 1) := by
    rw [← Int.pow_succ', Nat.sub_add_cancel hn]
  have hmod : (x % (2 : Int) ^ n = x ∧ 0 ≤ x) ∨ (x % (2 : Int) ^ n = x + 2 ^ n ∧ x < 0) := by
    by_cases hneg : x < 0
    · refine .inr ⟨?_, hneg⟩
      rw [← Int.add_emod_right, Int.emod_eq_of_lt (by omega) (by omega)]
    · exact .inl ⟨Int.emod_eq_of_lt (by omega) (by omega), by omega⟩
  have hpos := Int.emod_nonneg x (show (2 : Int) ^ n ≠ 0 by omega)
  have hnat : ((twos n x : Nat) : Int) = x % (2 : Int) ^ n := by
    rw [twos, Int.natCast_pow]
    exact Int.toNat_of_nonneg hpos
  have hhalf : ((2 ^ (n - 1) : Nat) : Int) = (2 : Int) ^ (n - 1) := Int.natCast_pow 2 (n - 1)
  rw [sext]
  split <;> omega

/-! Requests -/

theorem pres_lt (q : ReqFields) : (if q.pres then 1 else 0) < 2 ^ 1 := by
  split <;> decide

theorem reqOp_encodeReq (p : Params) {op : Nat} (q : ReqFields) (hop : op < 2 ^ 8) :
    reqOp (encodeReq p op q) = op :=
  bitField_pack_low _ hop

/-- Operand assembly gives back fields that fit (R71, R72). -/
theorem reqFields_encodeReq {p : Params} {op : Nat} {q : ReqFields} (hp : p.Wf) (hop : op < 2 ^ 8)
    (hq : q.Fits p) : reqFields p (encodeReq p op q) = q := by
  obtain ⟨hblen, hoff, hcnt⟩ := hq
  have hw : 8 ≤ p.idxw := hp
  have hpres : bitField (encodeReq p op q) (p.idxw + 7) 1 = if q.pres then 1 else 0 := by
    rw [show p.idxw + 7 = 8 + (p.idxw - 1 + 0) by omega, encodeReq, bitField_pack_high _ _ _ hop,
      bitField_pack_high _ _ _ hblen]
    exact bitField_pack_low _ (pres_lt q)
  have hlen : bitField (encodeReq p op q) 8 (p.idxw - 1) = q.blen := by
    rw [show 8 = 8 + 0 by omega, encodeReq, bitField_pack_high _ _ _ hop,
      bitField_pack_low _ hblen]
  have hoffset : bitField (encodeReq p op q) (p.idxw + 8) p.idxw = twos p.idxw q.off := by
    rw [show p.idxw + 8 = 8 + (p.idxw - 1 + (1 + 0)) by omega, encodeReq,
      bitField_pack_high _ _ _ hop, bitField_pack_high _ _ _ hblen,
      ← Nat.pow_one 2, bitField_pack_high _ _ _ (pres_lt q)]
    exact bitField_pack_low _ (twos_lt _ _)
  have hcount : bitField (encodeReq p op q) (2 * p.idxw + 8) p.idxw = twos p.idxw q.cnt := by
    rw [show 2 * p.idxw + 8 = 8 + (p.idxw - 1 + (1 + (p.idxw + 0))) by omega, encodeReq,
      bitField_pack_high _ _ _ hop, bitField_pack_high _ _ _ hblen,
      ← Nat.pow_one 2, bitField_pack_high _ _ _ (pres_lt q), Nat.pow_one,
      bitField_pack_high _ _ _ (twos_lt _ _), bitField_of_lt (twos_lt _ _)]
  rw [reqFields, hpres, hlen, hoffset, hcount, sext_twos (by omega) hoff, sext_twos (by omega) hcnt]
  cases q with
  | mk pres blen off cnt => cases pres <;> rfl

theorem Cmd.op_lt (c : Cmd) : c.op < 2 ^ 8 := by
  cases c <;> decide

/-- A command's descriptor decodes to the command with its own fields. -/
theorem decodeReq_encodeReq {p : Params} {c : Cmd} {q : ReqFields} (data : Memory) (hp : p.Wf)
    (hq : q.Fits p) (hc : c = .keyread → p.hasKeyread = true) :
    decodeReq p (encodeReq p c.op q) data = .ok (c.instr q data) := by
  have hop : encodeReq p c.op q % 256 = c.op := by
    rw [← reqOp_eq, reqOp_encodeReq p q c.op_lt]
  rw [decodeReq_of_op data (encodeReq_lt hp c.op_lt hq.1) hop hc,
    reqFields_encodeReq hp c.op_lt hq]

/-! Micro-instructions -/

theorem bitField_tgt (w : Nat) : bitField w 0 5 = w % 32 := by
  rw [bitField]
  omega

theorem bitField_uop {w : Nat} (hw : w < 512) : bitField w 5 4 = w / 32 := by
  rw [bitField]
  omega

/-- Exactly the codes `0x0` to `0x9` are micro-operations (R79). -/
theorem uopInstr_isSome_iff (uop : Nat) (tgt : RomIndex) :
    (∃ i, uopInstr uop tgt = some i) ↔ uop ≤ 9 := by
  constructor
  · rintro ⟨i, hi⟩
    refine Nat.le_of_not_lt fun hlarge => ?_
    obtain ⟨k, rfl⟩ : ∃ k, uop = k + 10 := ⟨uop - 10, by omega⟩
    cases hi
  · intro h
    match uop, h with
    | 0, _ | 1, _ | 2, _ | 3, _ | 4, _ | 5, _ | 6, _ | 7, _ | 8, _ | 9, _ => exact ⟨_, rfl⟩

/-- A word decodes by its two fields (R78). -/
theorem decodeUop_eq_ok_iff {w : Nat} {i : Instr} :
    decodeUop w = .ok i ↔
      w < 512 ∧ ∃ h : w % 32 < 19, uopInstr (w / 32) ⟨w % 32, h⟩ = some i := by
  unfold decodeUop
  by_cases hw : w < 512
  · rw [if_pos (show w < 2 ^ 9 from hw)]
    simp only [bitField_tgt, bitField_uop hw]
    by_cases ht : w % 32 < 19
    · rw [dif_pos ht]
      cases hi : uopInstr (w / 32) ⟨w % 32, ht⟩ <;> simp [hw, ht, hi]
    · simp [ht]
  · rw [if_neg (show ¬ w < 2 ^ 9 from hw)]
    exact ⟨nofun, fun h => absurd h.1 hw⟩

/-- A word of a micro-operation and a target decodes to them (R111). -/
theorem decodeUop_encodeUop {uop : Nat} {tgt : RomIndex} {i : Instr} (huop : uop ≤ 9)
    (hi : uopInstr uop tgt = some i) : decodeUop (encodeUop uop tgt) = .ok i := by
  have htgt := tgt.isLt
  have hdiv : encodeUop uop tgt / 32 = uop := by
    unfold encodeUop
    omega
  have hmod : encodeUop uop tgt % 32 = tgt.val := by
    unfold encodeUop
    omega
  refine decodeUop_eq_ok_iff.2 ⟨encodeUop_lt (by omega) tgt, by omega, ?_⟩
  simp only [hdiv, hmod, hi]

end Sys2Proof

namespace Sys2Proof.Machine

/-- Settles O5: a command by `decodeReq_encodeReq`, a micro-operation by `decodeUop_encodeUop`. -/
theorem decodeEncodeRoundTrip : Obligations.DecodeEncodeRoundTrip := by
  intro p i hp hi
  cases i with
  | keyload q data => exact decodeReq_encodeReq (c := .keyload) data hp hi.1 nofun
  | keyread q data => exact decodeReq_encodeReq (c := .keyread) data hp hi.1 fun _ => hi.2
  | hash q data => exact decodeReq_encodeReq (c := .hash) data hp hi.1 nofun
  | hashr q data => exact decodeReq_encodeReq (c := .hashr) data hp hi.1 nofun
  | idle tgt => exact decodeUop_encodeUop (by decide) rfl
  | loadv tgt => exact decodeUop_encodeUop (by decide) rfl
  | test tgt => exact decodeUop_encodeUop (by decide) rfl
  | ldblk tgt => exact decodeUop_encodeUop (by decide) rfl
  | ldfin tgt => exact decodeUop_encodeUop (by decide) rfl
  | inj3 tgt => exact decodeUop_encodeUop (by decide) rfl
  | round tgt => exact decodeUop_encodeUop (by decide) rfl
  | inj0 tgt => exact decodeUop_encodeUop (by decide) rfl
  | mark tgt => exact decodeUop_encodeUop (by decide) rfl
  | fold tgt => exact decodeUop_encodeUop (by decide) rfl

/-- Settles O8: the three tests of `decodeUop_eq_ok_iff`, the last by `uopInstr_isSome_iff`. -/
theorem microWordsDecodeExactly : Obligations.MicroWordsDecodeExactly := by
  intro w
  constructor
  · rintro ⟨i, hi⟩
    obtain ⟨hw, htgt, hi⟩ := decodeUop_eq_ok_iff.1 hi
    exact ⟨hw, (uopInstr_isSome_iff _ _).1 ⟨i, hi⟩, Nat.le_of_lt_succ htgt⟩
  · rintro ⟨hw, huop, htgt⟩
    obtain ⟨i, hi⟩ := (uopInstr_isSome_iff (w / 32) ⟨w % 32, Nat.lt_succ_of_le htgt⟩).2 huop
    exact ⟨i, decodeUop_eq_ok_iff.2 ⟨hw, Nat.lt_succ_of_le htgt, hi⟩⟩

/-- Settles O6: seven closed words, which the decoder evaluates. -/
theorem sampleWordsDecode : Obligations.SampleWordsDecode :=
  ⟨by decide, by decide, by decide, by decide, by decide, by decide, by decide⟩

end Sys2Proof.Machine

/-! What a request can lead to (files 40 and 41): an answer other than OK, a key loaded, or a run
dispatched. Each command, and the IDLE step that runs one, is said once to lead to nothing else. -/

namespace Sys2Proof.Machine

/-- The request is answered, not with OK, and every register is unchanged. -/
def Answers (s t : State) : Prop := ∃ r, r ≠ .ok ∧ t = s.respond r

/-- A key of 16 bytes is loaded and the request answered with OK (R90). -/
def LoadsKey (data : Memory) (s t : State) : Prop :=
  data.len = 16 ∧
    t = (s.setKey (keyC0 ^^^ le ((memBytes data).take 8))
      (keyC1 ^^^ le (((memBytes data).drop 8).take 8))).respond .ok

/-- Under a key, a run on a range of the request's buffer is dispatched (R94, R96). -/
def Dispatches (tgt : RomIndex) (q : ReqFields) (data : Memory) (s t : State) : Prop :=
  s.keyvalid = true ∧ data.len = q.blen ∧ ∃ p e, p ≤ e ∧ e ≤ data.len ∧
    t = (s.attach data p e (lengthByte (e - p))).goto tgt

section Outcomes

variable {s t : State} {tgt : RomIndex} {q : ReqFields} {data : Memory}

theorem answers_error (s : State) (e : ErrorKind) : Answers s (s.respond (.error e)) :=
  ⟨.error e, nofun, rfl⟩

theorem keyloadCommand_outcome (h : keyloadCommand q data s = .next t) :
    LoadsKey data s t ∨ Answers s t := by
  obtain ⟨-, hlen, h16, rfl⟩ | ⟨-, rfl⟩ := keyloadCommand_next.1 h
  · exact .inl ⟨hlen.trans h16, rfl⟩
  · exact .inr (answers_error s _)

theorem keyreadCommand_outcome (h : keyreadCommand s = .next t) : Answers s t := by
  obtain ⟨-, rfl⟩ | ⟨-, -, rfl⟩ | ⟨-, -, b0, b1, -, -, rfl⟩ := keyreadCommand_next.1 h
  · exact answers_error s _
  · exact answers_error s _
  · exact ⟨.okKey _, nofun, rfl⟩

theorem hashCommand_outcome (h : hashCommand tgt q data s = .next t) :
    Answers s t ∨ Dispatches tgt q data s t := by
  obtain ⟨hhonest, ⟨-, rfl⟩ | ⟨-, -, rfl⟩ | ⟨hkey, hpres, rfl⟩⟩ := hashCommand_next.1 h
  · exact .inl (answers_error s _)
  · exact .inl (answers_error s _)
  · exact .inr ⟨hkey, hhonest hpres, 0, data.len, Nat.zero_le _, Nat.le_refl _, rfl⟩

theorem hashrCommand_outcome (h : hashrCommand tgt q data s = .next t) :
    Answers s t ∨ Dispatches tgt q data s t := by
  obtain ⟨hhonest, ⟨-, rfl⟩ | ⟨-, -, rfl⟩ | ⟨-, -, -, rfl⟩ | ⟨hkey, hpres, hrange, rfl⟩⟩ :=
    hashrCommand_next.1 h
  · exact .inl (answers_error s _)
  · exact .inl (answers_error s _)
  · exact .inl (answers_error s _)
  · have hcnt : q.cnt.toNat = (q.off + q.cnt).toNat - q.off.toNat := by omega
    exact .inr ⟨hkey, hhonest hpres, q.off.toNat, (q.off + q.cnt).toNat, by omega, by omega,
      by rw [hcnt]⟩

/-- The three outcomes of an accepted request; only a KEYLOAD loads a key (R112). -/
theorem handleOffer_outcome {o : Offer} (h : handleOffer tgt o s = .next t) :
    Answers s t ∨ (o.desc % 256 = 0x01 ∧ LoadsKey o.data s t) ∨
      Dispatches tgt (reqFields s.cfg o.desc) o.data s t := by
  obtain ⟨hcmd, h⟩ | ⟨-, h⟩ | ⟨-, h⟩ | ⟨-, h⟩ | ⟨-, rfl⟩ := handleOffer_next.1 h
  · exact (keyloadCommand_outcome h).elim (fun hl => .inr (.inl ⟨(decodeCmd_ok hcmd).2, hl⟩)) .inl
  · exact .inl (keyreadCommand_outcome h)
  · exact (hashCommand_outcome h).imp_right .inr
  · exact (hashrCommand_outcome h).imp_right .inr
  · exact .inl (answers_error s _)

/-- An IDLE step changes nothing or handles the request it accepts (R112). -/
theorem execIdle_outcome (h : execIdle tgt s = .next t) :
    t = s ∨ (s.upc = 0 ∧ ∃ o rest, s.Accepts o rest ∧
      handleOffer tgt o (s.accept rest) = .next t) := by
  obtain ⟨-, rfl⟩ | ⟨-, -, rfl⟩ | ⟨hidle, o, rest, haccepts, h⟩ := execIdle_next.1 h
  · exact .inl rfl
  · exact .inl rfl
  · exact .inr ⟨hidle, o, rest, haccepts, h⟩

theorem State.Accepts.mem {o : Offer} {rest : List Offer} (h : s.Accepts o rest) : o ∈ s.offers := by
  obtain ⟨k, hk, -⟩ := h.eraseIdx
  exact List.mem_of_getElem? hk

end Outcomes

/-! The frames of the commands and of IDLE (R35) -/

/-- Every register and every byte of the attached buffer is unchanged, and nothing is accepted. -/
def SameRegisters (s t : State) : Prop :=
  SameEngine s t ∧ SameWorking s t ∧ t.m = s.m ∧ SameRange s t ∧ SameMemory s t ∧ t.upc = s.upc ∧
    SameOffers s t

theorem sameRegisters_refl (s : State) : SameRegisters s s :=
  ⟨⟨rfl, rfl, rfl, rfl⟩, ⟨rfl, rfl, rfl, rfl⟩, rfl, ⟨rfl, rfl, rfl⟩, ⟨rfl, fun _ => rfl⟩, rfl,
    ⟨rfl, rfl⟩⟩

theorem Answers.sameRegisters {s t : State} (h : Answers s t) : SameRegisters s t := by
  obtain ⟨r, -, rfl⟩ := h
  exact ⟨⟨rfl, rfl, rfl, rfl⟩, ⟨rfl, rfl, rfl, rfl⟩, rfl, ⟨rfl, rfl, rfl⟩, ⟨rfl, fun _ => rfl⟩, rfl,
    ⟨rfl, rfl⟩⟩

/-- What a host command given alone can do: nothing where the engine is busy (R112), else one of the
outcomes that belong to it. -/
theorem exec_command_outcome {q : ReqFields} {data : Memory} {i : Instr} {s t : State}
    (hi : i = .keyload q data ∨ i = .keyread q data ∨ i = .hash q data ∨ i = .hashr q data)
    (h : exec i s = .next t) :
    SameRegisters s t ∨ (i = .keyload q data ∧ LoadsKey data s t) ∨
      ((i = .hash q data ∨ i = .hashr q data) ∧ Dispatches hashEntry q data s t) := by
  by_cases hidle : s.upc = 0
  case neg =>
    have hsame : .next s = exec i s := by
      obtain rfl | rfl | rfl | rfl := hi <;> exact (if_neg hidle).symm
    cases hsame.trans h
    exact .inl (sameRegisters_refl s)
  obtain rfl | rfl | rfl | rfl := hi
  · exact (keyloadCommand_outcome ((if_pos hidle).symm.trans h)).elim
      (fun hloads => .inr (.inl ⟨rfl, hloads⟩)) fun hans => .inl hans.sameRegisters
  · exact .inl (keyreadCommand_outcome ((if_pos hidle).symm.trans h)).sameRegisters
  · exact (hashCommand_outcome ((if_pos hidle).symm.trans h)).imp (·.sameRegisters)
      fun hdispatch => .inr ⟨.inl rfl, hdispatch⟩
  · exact (hashrCommand_outcome ((if_pos hidle).symm.trans h)).imp (·.sameRegisters)
      fun hdispatch => .inr ⟨.inr rfl, hdispatch⟩

/-- Settles O46: the outcomes of `exec_command_outcome`. A loaded key is answered with OK and a dispatch
with nothing, so an error answer leaves every register. -/
theorem commandFrame : Obligations.CommandFrame := by
  intro q data i s t hi h
  obtain ⟨hengine, hworking, hm, hrange, hmemory, hupc, hoffers⟩ | ⟨rfl, -, rfl⟩ |
    ⟨hi, -, -, p, e, -, -, rfl⟩ := exec_command_outcome hi h
  case inl =>
    exact ⟨hworking, hoffers, hengine.cfg, hm, fun _ => ⟨hrange, hmemory, hupc⟩,
      fun _ => ⟨hengine, hrange, hmemory, hupc⟩, fun _ => ⟨hengine, .inl ⟨hrange, hmemory, hupc⟩⟩,
      fun _ => ⟨hengine, hrange, hmemory, hupc⟩⟩
  case inr.inl =>
    refine ⟨⟨rfl, rfl, rfl, rfl⟩, ⟨rfl, rfl⟩, rfl, rfl,
      fun _ => ⟨⟨rfl, rfl, rfl⟩, ⟨rfl, fun _ => rfl⟩, rfl⟩, nofun, ?hash, fun ⟨e, he⟩ => ?error⟩
    case hash => rintro (hi | hi) <;> cases hi
    case error => cases List.append_cancel_left (as := s.responses) he
  case inr.inr =>
    refine ⟨⟨rfl, rfl, rfl, rfl⟩, ⟨rfl, rfl⟩, rfl, rfl, ?keyload, ?keyread,
      fun _ => ⟨⟨rfl, rfl, rfl, rfl⟩, .inr ⟨rfl, rfl, rfl⟩⟩, fun ⟨e, he⟩ => ?error⟩
    case keyload =>
      rintro rfl
      obtain hi | hi := hi <;> cases hi
    case keyread =>
      rintro rfl
      obtain hi | hi := hi <;> cases hi
    case error =>
      have hnone : [] = [Response.error e] := List.append_cancel_left ((List.append_nil _).trans he)
      cases hnone

/-- Settles O47: the three outcomes of the request IDLE accepts. -/
theorem idleFrame : Obligations.IdleFrame := by
  intro tgt s t h
  obtain rfl | ⟨hidle, o, rest, haccepts, h⟩ := execIdle_outcome h
  case inl => exact ⟨⟨rfl, rfl, rfl, rfl⟩, rfl, rfl, .inl rfl⟩
  obtain ⟨k, hk, rfl⟩ := haccepts.eraseIdx
  obtain ⟨r, -, rfl⟩ | ⟨-, -, rfl⟩ | ⟨-, -, p, e, -, -, rfl⟩ := handleOffer_outcome h
  · exact ⟨⟨rfl, rfl, rfl, rfl⟩, rfl, rfl, .inr ⟨hidle, k, o, hk, rfl, rfl, .inl
      ⟨⟨rfl, rfl, rfl⟩, ⟨rfl, fun _ => rfl⟩, rfl, r, rfl, fun _ => ⟨rfl, rfl, rfl, rfl⟩⟩⟩⟩
  · exact ⟨⟨rfl, rfl, rfl, rfl⟩, rfl, rfl, .inr ⟨hidle, k, o, hk, rfl, rfl, .inl
      ⟨⟨rfl, rfl, rfl⟩, ⟨rfl, fun _ => rfl⟩, rfl, .ok, rfl, fun hne => absurd rfl hne⟩⟩⟩
  · exact ⟨⟨rfl, rfl, rfl, rfl⟩, rfl, rfl, .inr ⟨hidle, k, o, hk, rfl, rfl, .inr
      ⟨⟨rfl, rfl, rfl, rfl⟩, rfl, rfl, rfl⟩⟩⟩

end Sys2Proof.Machine

/-! The micro-operations one by one: their frames (R35), and where the model stops (R28, log entries 6, 10
and 16). -/

namespace Sys2Proof.Machine

section

variable {i : Instr} {tgt : RomIndex} {s t : State}

/-- The micro-operations of the mixing datapath that go on with the run (R136 to R140). -/
abbrev IsDatapath (i : Instr) (tgt : RomIndex) : Prop :=
  i = .loadv tgt ∨ i = .round tgt ∨ i = .inj3 tgt ∨ i = .inj0 tgt ∨ i = .mark tgt

/-- They write the working state and UPC. -/
theorem exec_datapath_writes (hi : IsDatapath i tgt) (h : exec i s = .next t) :
    ∃ a0 a1 a2 a3, t = { s with v0 := a0, v1 := a1, v2 := a2, v3 := a3, upc := tgt } := by
  obtain rfl | rfl | rfl | rfl | rfl := hi
  · obtain ⟨b0, b1, -, -, rfl⟩ := execLoadv_next.1 h
    exact ⟨_, _, _, _, rfl⟩
  · obtain ⟨q, -, -, -, -, rfl⟩ := execRound_next.1 h
    exact ⟨_, _, _, _, rfl⟩
  · obtain ⟨a, m, -, -, rfl⟩ := execInj3_next.1 h
    exact ⟨_, _, _, _, rfl⟩
  · obtain ⟨a, m, -, -, rfl⟩ := execInj0_next.1 h
    exact ⟨_, _, _, _, rfl⟩
  · obtain ⟨a, -, rfl⟩ := execMark_next.1 h
    exact ⟨_, _, _, _, rfl⟩

theorem exec_datapath_frame (hi : IsDatapath i tgt) (h : exec i s = .next t) :
    SameEngine s t ∧ SameRange s t ∧ SameOffers s t ∧ SameMemory s t ∧
      t.responses = s.responses ∧ t.m = s.m ∧ t.upc = tgt := by
  obtain ⟨a0, a1, a2, a3, rfl⟩ := exec_datapath_writes hi h
  exact ⟨⟨rfl, rfl, rfl, rfl⟩, ⟨rfl, rfl, rfl⟩, ⟨rfl, rfl⟩, ⟨rfl, fun _ => rfl⟩, rfl, rfl, rfl⟩

/-- Settles O43: the frame all five share, and the words the last three leave, by their laws. -/
theorem datapathFrame : Obligations.DatapathFrame := by
  intro tgt i s t hi h
  obtain ⟨hengine, hrange, hoffers, hmemory, hresponses, hm, hupc⟩ := exec_datapath_frame hi h
  refine ⟨hengine, hrange, hoffers, hmemory, hresponses, hm, hupc, ?inj3, ?inj0, ?mark⟩
  case inj3 =>
    rintro rfl
    obtain ⟨a, m, -, -, rfl⟩ := execInj3_next.1 h
    exact ⟨rfl, rfl, rfl⟩
  case inj0 =>
    rintro rfl
    obtain ⟨a, m, -, -, rfl⟩ := execInj0_next.1 h
    exact ⟨rfl, rfl, rfl⟩
  case mark =>
    rintro rfl
    obtain ⟨a, -, rfl⟩ := execMark_next.1 h
    exact ⟨rfl, rfl, rfl⟩

/-- Settles O44: both branches of TEST write UPC alone, the two loads M, PTR and UPC. -/
theorem loaderFrame : Obligations.LoaderFrame := by
  intro tgt i s t hi h
  obtain rfl | rfl | rfl := hi
  · obtain ⟨e, p, -, -, ⟨-, -, rfl⟩ | ⟨-, rfl⟩⟩ := execTest_next.1 h <;>
      exact ⟨⟨rfl, rfl, rfl, rfl⟩, ⟨rfl, rfl, rfl, rfl⟩, ⟨rfl, rfl⟩, ⟨rfl, fun _ => rfl⟩, rfl, rfl,
        rfl, fun _ => ⟨rfl, rfl⟩⟩
  · obtain ⟨b, p, bs, -, -, -, rfl⟩ := execLdblk_next.1 h
    exact ⟨⟨rfl, rfl, rfl, rfl⟩, ⟨rfl, rfl, rfl, rfl⟩, ⟨rfl, rfl⟩, ⟨rfl, fun _ => rfl⟩, rfl, rfl,
      rfl, nofun⟩
  · obtain ⟨b, p, e, l, bs, -, -, -, -, -, -, -, rfl⟩ := execLdfin_next.1 h
    exact ⟨⟨rfl, rfl, rfl, rfl⟩, ⟨rfl, rfl, rfl, rfl⟩, ⟨rfl, rfl⟩, ⟨rfl, fun _ => rfl⟩, rfl, rfl,
      rfl, nofun⟩

/-- Settles O45: FOLD's next state is a response, a release and a jump. -/
theorem foldFrame : Obligations.FoldFrame := by
  intro tgt s t h
  obtain ⟨q, -, -, -, -, rfl⟩ := execFold_next.1 h
  exact ⟨⟨rfl, rfl, rfl, rfl⟩, ⟨rfl, rfl, rfl⟩, ⟨rfl, rfl⟩, rfl, ⟨_, rfl⟩, rfl, rfl, rfl, rfl, rfl,
    rfl⟩

end

/-! Reading a register that holds no value (R28, D19, U1) -/

/-- The machine stops at a register that holds no value. -/
def StopsNoValue (o : Out) : Prop := ∃ r, o = .fault (.noValue r)

/-- A register read stops unless it finds a value, and then stops where what follows does. -/
theorem withValue_stops {α : Type} {r : Reg} {x : Option α} {k : α → Out}
    (h : ∀ a, x = some a → StopsNoValue (k a)) : StopsNoValue (withValue r x k) := by
  cases x with
  | none => exact ⟨r, rfl⟩
  | some a => exact h a rfl

theorem withV_stops {s : State} (k : Quad → Out)
    (h : s.v0 = none ∨ s.v1 = none ∨ s.v2 = none ∨ s.v3 = none) : StopsNoValue (withV s k) :=
  withValue_stops fun a0 h0 => withValue_stops fun a1 h1 => withValue_stops fun a2 h2 =>
    withValue_stops fun a3 h3 => by simp [h0, h1, h2, h3] at h

/-- Settles O41: the reads of each meaning in their order; where all but the last find values, the
hypothesis leaves the last none. -/
theorem readingNoValueFaults : Obligations.ReadingNoValueFaults := by
  intro tgt s
  refine ⟨fun h => ?loadv, fun h => ?test, fun h => ?ldblk, fun h => ?ldfin, fun h => ?inj3,
    fun h => ?inj0, fun h => ?mark, fun h => ⟨?round, ?fold⟩, fun q data hidle hexists hkey h => ?keyread⟩
  case loadv =>
    exact withValue_stops fun b0 h0 => withValue_stops fun b1 h1 => by simp [h0, h1] at h
  case test =>
    exact withValue_stops fun e he => withValue_stops fun p hp => by simp [he, hp] at h
  case ldblk =>
    exact withValue_stops fun b hb => withValue_stops fun p hp => by simp [hb, hp] at h
  case ldfin =>
    exact withValue_stops fun b hb => withValue_stops fun p hp => withValue_stops fun e he =>
      withValue_stops fun l hl => by simp [hb, hp, he, hl] at h
  case inj3 =>
    exact withValue_stops fun a ha => withValue_stops fun m hm => by simp [ha, hm] at h
  case inj0 =>
    exact withValue_stops fun a ha => withValue_stops fun m hm => by simp [ha, hm] at h
  case mark =>
    simp only [exec, execMark, h, withValue_none]
  case round =>
    have hstops : StopsNoValue (execRound tgt s) := withV_stops _ h
    exact hstops
  case fold =>
    have hstops : StopsNoValue (execFold tgt s) := withV_stops _ h
    exact hstops
  case keyread =>
    rw [exec_keyread_of_idle hidle, keyreadCommand, hexists, hkey]
    exact withValue_stops fun b0 h0 => withValue_stops fun b1 h1 => by simp [h0, h1] at h

/-! The stops outside the rules -/

/-- A read that is not in the buffer stops at an index the buffer does not have. -/
theorem withRead_stops {b : Memory} {a n : Nat} (k : List Byte → Out) (h : b.len < a + n) :
    ∃ x, withRead b a n k = .fault (.outsideBuffer x) ∧ readByte b x = none := by
  have hread : memRead b a n = none := if_neg (by omega)
  refine ⟨_, by rw [withRead, hread], if_neg ?_⟩
  split <;> omega

theorem withBuffer_mismatch {q : ReqFields} {data : Memory} (k : Option Memory → Out)
    (hpres : q.pres = true) (hlen : data.len ≠ q.blen) :
    withBuffer q data k = .refused .lengthMismatch := by
  rw [withBuffer, if_pos hpres, if_neg hlen]

theorem handleOffer_too_long {tgt : RomIndex} {o : Offer} {s : State}
    (hlen : 2 ^ s.cfg.reqBits ≤ o.desc) : handleOffer tgt o s = .refused .malformedDescriptor := by
  have hcmd : decodeCmd s.cfg o.desc = .error .descriptorTooLong := if_neg (by omega)
  rw [handleOffer, hcmd]

/-- Settles O42: each stop is where the one operation that raises it does. -/
theorem stopsOutsideTheRules : Obligations.StopsOutsideTheRules := by
  refine ⟨fun tgt s b p hb hp hlen => ?ldblk, fun tgt s b p e l hb hp he hl hfar => ?trailing,
    fun tgt s b p e l hb hp he hl hle hshort hend => ?ldfin,
    fun tgt s p e hp he hfull hlast => ?test, fun q data s hidle hpres hlen => ?mismatch,
    fun tgt s o rest hidle haccepts hlen => ?tooLong⟩
  case ldblk =>
    simp only [exec, execLdblk, hb, hp, withValue_some]
    exact withRead_stops _ hlen
  case trailing =>
    simp only [exec, execLdfin, hb, hp, he, hl, withValue_some]
    exact if_neg (by omega)
  case ldfin =>
    simp only [exec, execLdfin, hb, hp, he, hl, withValue_some]
    rw [if_pos ⟨hle, hshort⟩]
    exact withRead_stops _ (by omega)
  case test =>
    simp only [exec, execTest, hp, he, withValue_some]
    rw [if_pos ((blockRemains_iff e p).2 hfull)]
    exact dif_neg (by omega)
  case mismatch =>
    exact ⟨(if_pos hidle).trans (withBuffer_mismatch _ hpres hlen),
      (if_pos hidle).trans (withBuffer_mismatch _ hpres hlen),
      (if_pos hidle).trans (withBuffer_mismatch _ hpres hlen)⟩
  case tooLong =>
    exact (execIdle_of_accepts hidle haccepts).trans (handleOffer_too_long hlen)

/-- Settles O31: the read that `execLdblk_next` asks for succeeds and answers the eight bytes. -/
theorem ldblkLoadsBlock : Obligations.LdblkLoadsBlock := by
  intro tgt s b p hbuf hptr hlen
  exact execLdblk_next.2 ⟨b, p, _, hbuf, hptr, memRead_eq_slice hlen, rfl⟩

end Sys2Proof.Machine

/-! The step (R110): which micro-operation it runs at which ROM index (R111), and so what it can do. -/

namespace Sys2Proof.Machine

/-! The micro-program -/

/-- The micro-program the ROM's words encode (R111). -/
def microProgram : List Instr :=
  [.idle 1, .loadv 2, .test 8, .ldblk 4, .inj3 5, .round 6, .round 7, .inj0 2, .ldfin 9, .inj3 10,
   .round 11, .round 12, .inj0 13, .mark 14, .round 15, .round 16, .round 17, .round 18, .fold 0]

/-- The micro-operation at a ROM index. -/
def microInstr (k : RomIndex) : Instr := microProgram.getD k.val (.idle 1)

/-- The listing of R111, index by index. -/
theorem decodeUop_romWord (k : RomIndex) : decodeUop (romWord k) = .ok (microInstr k) := by
  have hlisting : (List.finRange 19).map (fun k => decodeUop (romWord k)) =
      (List.finRange 19).map fun k => .ok (microInstr k) := romListing.2
  exact List.map_inj_left.1 hlisting k (List.mem_finRange k)

theorem step_eq_exec (s : State) : step s = exec (microInstr s.upc) s := by
  rw [step, fetch, decodeUop_romWord]

/-- The indices of the datapath micro-operations that go on with the run. -/
abbrev DatapathIndex (k : RomIndex) : Prop := k ≠ 0 ∧ k ≠ 2 ∧ k ≠ 3 ∧ k ≠ 8 ∧ k ≠ 18

/-- Where they go: to the next index, and from the end of the loop's body back to TEST (R115). -/
def afterDatapath (k : RomIndex) : RomIndex := if k = 7 then 2 else k + 1

theorem microInstr_isDatapath :
    ∀ k, DatapathIndex k → IsDatapath (microInstr k) (afterDatapath k) := by decide

theorem microInstr_eq_loadv_iff :
    ∀ k, microInstr k = .loadv (afterDatapath k) ↔ k = 1 := by decide

/-- The six things a step can be. -/
inductive StepIs (s t : State) : Prop where
  | idle (hk : s.upc = 0) (h : execIdle 1 s = .next t)
  | test (hk : s.upc = 2) (h : execTest 8 s = .next t)
  | ldblk (hk : s.upc = 3) (h : execLdblk 4 s = .next t)
  | ldfin (hk : s.upc = 8) (h : execLdfin 9 s = .next t)
  | fold (hk : s.upc = 18) (h : execFold 0 s = .next t)
  | datapath (hk : DatapathIndex s.upc)
      (h : exec (microInstr s.upc) s = .next t)

theorem romIndex_cases :
    ∀ k : RomIndex, k = 0 ∨ k = 2 ∨ k = 3 ∨ k = 8 ∨ k = 18 ∨ DatapathIndex k := by decide

/-- A step is the micro-operation at UPC, by the kinds of them that R115's paths tell apart. -/
theorem step_cases {s t : State} (h : step s = .next t) : StepIs s t := by
  rw [step_eq_exec] at h
  obtain hk | hk | hk | hk | hk | hk := romIndex_cases s.upc
  · exact .idle hk (by rwa [hk] at h)
  · exact .test hk (by rwa [hk] at h)
  · exact .ldblk hk (by rwa [hk] at h)
  · exact .ldfin hk (by rwa [hk] at h)
  · exact .fold hk (by rwa [hk] at h)
  · exact .datapath hk h

/-- Settles O26: `step` is `exec` of what the word at UPC decodes to. -/
theorem stepRunsRomWord : Obligations.StepRunsRomWord := by
  intro s i hi
  rw [step, fetch, hi]

/-! The paths (R115) -/

/-- The path to the next index, where there is no other. -/
theorem romEdge_of_succ {j k : RomIndex}
    (hj : j.val ≠ 0 ∧ j.val ≠ 2 ∧ j.val ≠ 7 ∧ j.val ≠ 18) (hk : k.val = j.val + 1) :
    romEdge j k := by
  obtain ⟨h0, h2, h7, h18⟩ := hj
  exact .inr (.inr (.inr (.inr ⟨h0, h2, h7, h18, hk⟩)))

theorem romEdge_afterDatapath : ∀ k, DatapathIndex k → romEdge k (afterDatapath k) := by
  unfold romEdge
  decide

theorem execIdle_upc {tgt : RomIndex} {s t : State} (h : execIdle tgt s = .next t) :
    t.upc = s.upc ∨ t.upc = tgt := by
  obtain ⟨-, -, -, rfl | ⟨-, k, o, -, -, -, ⟨-, -, hupc, -⟩ | ⟨-, hupc, -⟩⟩⟩ := idleFrame tgt s t h
  · exact .inl rfl
  · exact .inl hupc
  · exact .inr hupc

/-- The loop test at its index (R113, R115). -/
theorem execTest_next_of_loop {s t : State} (hk : s.upc = 2) (h : execTest 8 s = .next t) :
    ∃ e p, s.endp = some e ∧ s.ptr = some p ∧
      ((p + 8 ≤ e ∧ t = s.goto 3) ∨ (e < p + 8 ∧ t = s.goto 8)) := by
  obtain ⟨e, p, he, hp, ⟨hfull, hlt, rfl⟩ | ⟨hshort, rfl⟩⟩ := execTest_next.1 h
  · have hnext : (⟨s.upc.val + 1, hlt⟩ : RomIndex) = 3 := Fin.ext (congrArg (·.val + 1) hk)
    exact ⟨e, p, he, hp, .inl ⟨hfull, by rw [hnext]⟩⟩
  · exact ⟨e, p, he, hp, .inr ⟨hshort, rfl⟩⟩

/-- Settles O56: the target of the micro-operation at each index. -/
theorem microProgramPaths : Obligations.MicroProgramPaths := by
  intro s t h
  cases step_cases h with
  | idle hk h =>
    obtain hupc | hupc := execIdle_upc h <;> rw [hupc, hk]
    · exact .inl ⟨rfl, .inl rfl⟩
    · exact .inl ⟨rfl, .inr rfl⟩
  | test hk h =>
    obtain ⟨e, p, -, -, ⟨-, rfl⟩ | ⟨-, rfl⟩⟩ := execTest_next_of_loop hk h <;>
      rw [hk, State.goto_upc]
    · exact .inr (.inl ⟨rfl, .inl rfl⟩)
    · exact .inr (.inl ⟨rfl, .inr rfl⟩)
  | ldblk hk h =>
    obtain ⟨b, p, bs, -, -, -, rfl⟩ := execLdblk_next.1 h
    rw [hk]
    exact romEdge_of_succ (by decide) rfl
  | ldfin hk h =>
    obtain ⟨b, p, e, l, bs, -, -, -, -, -, -, -, rfl⟩ := execLdfin_next.1 h
    rw [hk]
    exact romEdge_of_succ (by decide) rfl
  | fold hk h =>
    obtain ⟨q, -, -, -, -, rfl⟩ := execFold_next.1 h
    rw [hk]
    exact .inr (.inr (.inr (.inl ⟨rfl, rfl⟩)))
  | datapath hk h =>
    obtain ⟨-, -, -, -, -, -, hupc⟩ := exec_datapath_frame (microInstr_isDatapath _ hk) h
    rw [hupc]
    exact romEdge_afterDatapath _ hk

/-! A step of a busy engine leaves the engine state and the offers; before FOLD also the buffer and the
responses. -/

theorem step_busy_frame {s t : State} (hbusy : s.upc ≠ 0) (h : step s = .next t) :
    SameEngine s t ∧ SameOffers s t ∧
      ((s.upc ≠ 18 ∧ SameMemory s t ∧ t.responses = s.responses) ∨
        (s.upc = 18 ∧ t.buf = none ∧ ∃ tag, t.responses = s.responses ++ [.okTag tag])) := by
  cases step_cases h with
  | idle hk h => exact absurd hk hbusy
  | test hk h =>
    obtain ⟨hengine, -, hoffers, hmemory, hresponses, -⟩ := loaderFrame 8 _ s t (.inl rfl) h
    exact ⟨hengine, hoffers, .inl ⟨by simp [hk], hmemory, hresponses⟩⟩
  | ldblk hk h =>
    obtain ⟨hengine, -, hoffers, hmemory, hresponses, -⟩ := loaderFrame 4 _ s t (.inr (.inl rfl)) h
    exact ⟨hengine, hoffers, .inl ⟨by simp [hk], hmemory, hresponses⟩⟩
  | ldfin hk h =>
    obtain ⟨hengine, -, hoffers, hmemory, hresponses, -⟩ := loaderFrame 9 _ s t (.inr (.inr rfl)) h
    exact ⟨hengine, hoffers, .inl ⟨by simp [hk], hmemory, hresponses⟩⟩
  | fold hk h =>
    obtain ⟨hengine, -, hoffers, -, hresponses, -, -, -, -, -, hbuf⟩ := foldFrame 0 s t h
    exact ⟨hengine, hoffers, .inr ⟨hk, hbuf, hresponses⟩⟩
  | datapath hk h =>
    obtain ⟨hengine, -, hoffers, hmemory, hresponses, -⟩ :=
      exec_datapath_frame (microInstr_isDatapath _ hk) h
    obtain ⟨-, -, -, -, h18⟩ := hk
    exact ⟨hengine, hoffers, .inl ⟨h18, hmemory, hresponses⟩⟩

theorem execIdle_of_step {s t : State} (hidle : s.upc = 0) (h : step s = .next t) :
    execIdle hashEntry s = .next t := (step_of_idle hidle).symm.trans h

/-- Settles O25: a busy step is none of IDLE's, and a command given alone tests UPC first. -/
theorem busyEngineAcceptsNothing : Obligations.BusyEngineAcceptsNothing := by
  refine ⟨fun s t hbusy h => ?step, fun q data s hbusy =>
    ⟨if_neg hbusy, if_neg hbusy, if_neg hbusy, if_neg hbusy⟩⟩
  case step =>
    obtain ⟨-, hoffers, -⟩ := step_busy_frame hbusy h
    exact ⟨hoffers.offers, hoffers.accepted⟩

/-- Settles O4: the parameters by the frames, the key by `step_keeps_key`. -/
theorem stepKeepsParamsAndKeyvalid : Obligations.StepKeepsParamsAndKeyvalid := by
  refine fun s t h => ⟨?_, fun hkey => step_keeps_key hkey h⟩
  by_cases hidle : s.upc = 0
  · obtain ⟨-, -, hcfg, -⟩ := idleFrame _ s t (execIdle_of_step hidle h)
    exact hcfg
  · obtain ⟨hengine, -⟩ := step_busy_frame hidle h
    exact hengine.cfg

/-- Settles O48: IDLE leaves the buffer or attaches the accepted request's, and of the busy steps only
FOLD changes it. -/
theorem noStepWritesMemory : Obligations.NoStepWritesMemory := by
  intro s t h
  by_cases hidle : s.upc = 0
  · obtain ⟨-, -, -, rfl | ⟨-, k, o, hk, -, -, ⟨-, hmemory, -⟩ | ⟨-, -, -, hbuf⟩⟩⟩ :=
      idleFrame _ s t (execIdle_of_step hidle h)
    · exact .inl ⟨rfl, fun _ => rfl⟩
    · exact .inl hmemory
    · exact .inr (.inr ⟨hidle, o, List.mem_of_getElem? hk, hbuf⟩)
  · obtain ⟨-, -, ⟨-, hmemory, -⟩ | ⟨hlast, hbuf, -⟩⟩ := step_busy_frame hidle h
    · exact .inl hmemory
    · exact .inr (.inl ⟨by rw [hlast]; rfl, hbuf⟩)

/-- Settles O55: the three outcomes of the accepted request, of which one loads a key. -/
theorem keyChangesOnlyByKeyload : Obligations.KeyChangesOnlyByKeyload := by
  intro s t h
  by_cases hidle : s.upc = 0
  case neg => exact .inl (step_busy_frame hidle h).1
  obtain rfl | ⟨-, o, rest, haccepts, h⟩ := execIdle_outcome (execIdle_of_step hidle h)
  · exact .inl ⟨rfl, rfl, rfl, rfl⟩
  obtain ⟨r, -, rfl⟩ | ⟨hop, hlen, rfl⟩ | ⟨-, -, p, e, -, -, rfl⟩ := handleOffer_outcome h
  · exact .inl ⟨rfl, rfl, rfl, rfl⟩
  · exact .inr ⟨hidle, hidle, rfl, o, haccepts.mem, hop, hlen, rfl, rfl, rfl⟩
  · exact .inl ⟨rfl, rfl, rfl, rfl⟩

theorem runsOpen_of_idle {s : State} (h : s.upc = 0) : runsOpen s = 0 := if_pos h

theorem runsOpen_of_busy {s : State} (h : s.upc ≠ 0) : runsOpen s = 1 := if_neg h

/-- A busy engine goes idle by FOLD alone (R115). -/
theorem step_busy_upc {s t : State} (hbusy : s.upc ≠ 0) (h : step s = .next t) :
    t.upc = 0 ↔ s.upc = 18 := by
  have h0 {k : RomIndex} : k = 0 ↔ k.val = 0 := Fin.ext_iff
  have h18 : s.upc = 18 ↔ s.upc.val = 18 := Fin.ext_iff
  have hedge := microProgramPaths s t h
  rw [ne_eq, h0] at hbusy
  rw [h0, h18]
  unfold romEdge at hedge
  omega

/-- Settles O54: an accepted request is answered or opens a run, and a run closes with FOLD's answer. -/
theorem oneResponsePerRequest : Obligations.OneResponsePerRequest := by
  intro s t h
  by_cases hidle : s.upc = 0
  case pos =>
    obtain ⟨-, -, -, rfl | ⟨-, k, o, -, -, haccepted, ⟨-, -, hupc, r, hresponses, -⟩ |
      ⟨-, hupc, hresponses, -⟩⟩⟩ := idleFrame _ s t (execIdle_of_step hidle h)
    · exact ⟨⟨[], by simp⟩, rfl⟩
    · refine ⟨⟨[r], hresponses, Nat.le_refl 1⟩, ?_⟩
      rw [runsOpen_of_idle hidle, runsOpen_of_idle (hupc.trans hidle), hresponses, haccepted,
        List.length_append, List.length_singleton]
      omega
    · refine ⟨⟨[], by simp [hresponses]⟩, ?_⟩
      have hbusy : t.upc ≠ 0 := by simp [hupc, hashEntry]
      rw [runsOpen_of_idle hidle, runsOpen_of_busy hbusy, hresponses, haccepted]
      exact Nat.add_right_comm _ 1 _
  case neg =>
    have hend := step_busy_upc hidle h
    obtain ⟨-, hoffers, ⟨hnot, -, hresponses⟩ | ⟨hlast, -, tag, hresponses⟩⟩ :=
      step_busy_frame hidle h
    · refine ⟨⟨[], by simp [hresponses]⟩, ?_⟩
      rw [runsOpen_of_busy hidle, runsOpen_of_busy (mt hend.1 hnot), hresponses, hoffers.accepted]
    · refine ⟨⟨[_], hresponses, Nat.le_refl 1⟩, ?_⟩
      rw [runsOpen_of_busy hidle, runsOpen_of_idle (hend.2 hlast), hresponses, hoffers.accepted,
        List.length_append, List.length_singleton]

end Sys2Proof.Machine

/-! The idle engine: the commands' dispatch (R94, R96), the request IDLE takes (R112, R183), and a key
loaded and read back (R92). -/

namespace Sys2Proof.Machine

section

variable {s : State} {o : Offer} {rest : List Offer} {tgt : RomIndex}

theorem exec_hash_of_idle (hidle : s.upc = 0) (q : ReqFields) (data : Memory) :
    exec (.hash q data) s = hashCommand hashEntry q data s := if_pos hidle

theorem exec_hashr_of_idle (hidle : s.upc = 0) (q : ReqFields) (data : Memory) :
    exec (.hashr q data) s = hashrCommand hashEntry q data s := if_pos hidle

/-- R26's byte is of the length modulo 256. -/
theorem lengthByte_eq (n : Nat) : lengthByte n = BitVec.ofNat 8 (n % 256) := by
  apply BitVec.eq_of_toNat_eq
  rw [lengthByte_toNat, BitVec.toNat_ofNat, Nat.mod_mod]

/-- Settles O19: the three outcomes of `hashCommand_next`. -/
theorem hashStartsRun : Obligations.HashStartsRun := by
  intro q data s hidle hhonest
  rw [exec_hash_of_idle hidle, ← lengthByte_eq]
  exact ⟨fun hnoKey => hashCommand_next.2 ⟨hhonest, .inl ⟨hnoKey, rfl⟩⟩,
    fun hkey habsent => hashCommand_next.2 ⟨hhonest, .inr (.inl ⟨hkey, habsent, rfl⟩)⟩,
    fun hkey hpres => hashCommand_next.2 ⟨hhonest, .inr (.inr ⟨hkey, hpres, rfl⟩)⟩⟩

/-- HASHR dispatches a run on a range of naturals that lies in the buffer. -/
theorem hashrCommand_of_range {q : ReqFields} {data : Memory} {off cnt : Nat}
    (hhonest : q.Honest data) (hkey : s.keyvalid = true) (hpres : q.pres = true) (hoff : q.off = off)
    (hcnt : q.cnt = cnt) (hend : off + cnt ≤ data.len) :
    hashrCommand tgt q data s =
      .next ((s.attach data off (off + cnt) (lengthByte cnt)).goto tgt) := by
  have hrange : ¬ (q.off < 0 ∨ q.cnt < 0 ∨ q.off + q.cnt > data.len) := by omega
  have hsum : (q.off + q.cnt).toNat = off + cnt := by omega
  refine hashrCommand_next.2 ⟨hhonest, .inr (.inr (.inr ⟨hkey, hpres, hrange, ?_⟩))⟩
  rw [hsum, hoff, hcnt, Int.toNat_natCast, Int.toNat_natCast]

/-- Settles O20: the four outcomes of `hashrCommand_next`. -/
theorem hashrStartsRun : Obligations.HashrStartsRun := by
  intro q data s hidle hhonest
  rw [exec_hashr_of_idle hidle]
  refine ⟨fun hnoKey => hashrCommand_next.2 ⟨hhonest, .inl ⟨hnoKey, rfl⟩⟩,
    fun hkey habsent => hashrCommand_next.2 ⟨hhonest, .inr (.inl ⟨hkey, habsent, rfl⟩)⟩,
    fun hkey hpres hbad => hashrCommand_next.2 ⟨hhonest, .inr (.inr (.inl ⟨hkey, hpres, hbad, rfl⟩))⟩,
    fun off cnt hkey hpres hoff hcnt hend => ?dispatched⟩
  case dispatched =>
    rw [hashrCommand_of_range hhonest hkey hpres hoff hcnt hend, lengthByte_eq]
    rfl

/-- The idle engine handles a request as it runs the instruction the request decodes to, where the
target is the entry of the hashing micro-program. -/
theorem handleOffer_eq_exec {c : Cmd} (hidle : s.upc = 0) (h : decodeCmd s.cfg o.desc = .ok c) :
    handleOffer hashEntry o s = exec (c.instr (reqFields s.cfg o.desc) o.data) s := by
  rw [handleOffer, h]
  cases c <;> exact (if_pos hidle).symm

theorem decodeReq_ok {p : Params} {desc : Nat} {data : Memory} {i : Instr}
    (h : decodeReq p desc data = .ok i) :
    ∃ c, decodeCmd p desc = .ok c ∧ i = c.instr (reqFields p desc) data := by
  unfold decodeReq at h
  cases hc : decodeCmd p desc with
  | error r => simp [hc] at h
  | ok c =>
    simp only [hc, Except.ok.injEq] at h
    exact ⟨c, rfl, h.symm⟩

/-- Settles O27: the accepted request's command, by `handleOffer_eq_exec`. -/
theorem stepRunsOfferedRequest : Obligations.StepRunsOfferedRequest := by
  intro s o rest i hidle haccepts hi
  obtain ⟨c, hc, rfl⟩ := decodeReq_ok hi
  exact (step_of_accepts hidle haccepts).trans (handleOffer_eq_exec (s := s.accept rest) hidle hc)

/-- Settles O28: with no offer `execIdle_next` leaves the state, with some IDLE takes one. -/
theorem idleAcceptsAtMostOne : Obligations.IdleAcceptsAtMostOne := by
  refine ⟨fun tgt s hidle hnone => execIdle_next.2 (.inr (.inl ⟨hidle, hnone, rfl⟩)),
    fun s hidle hsome => ?_⟩
  obtain ⟨o, rest, haccepts⟩ := State.exists_accepts hsome
  obtain ⟨k, hk, rfl⟩ := haccepts.eraseIdx
  exact ⟨k, o, hk, fun tgt => execIdle_of_accepts hidle haccepts⟩

/-- Settles O29: the one request on offer is accepted, and HASH or KEYLOAD finds its operands. -/
theorem idleDispatches : Obligations.IdleDispatches := by
  intro tgt s o hidle honly hhonest hpres
  obtain ⟨hlen, hdata⟩ := hhonest
  have haccepted : exec (.idle tgt) s = handleOffer tgt o (s.accept []) :=
    execIdle_of_accepts hidle (State.accepts_singleton honly)
  rw [haccepted]
  refine ⟨fun hop hkey => ?hash, fun hop h16 => ?keyload⟩
  case hash =>
    rw [handleOffer_of_hash (s := s.accept []) hlen hop, ← lengthByte_eq]
    exact hashCommand_next.2 ⟨hdata, .inr (.inr ⟨hkey, hpres, rfl⟩)⟩
  case keyload =>
    rw [handleOffer_of_keyload (s := s.accept []) hlen hop]
    exact keyloadCommand_next.2 (.inl ⟨hpres, hdata hpres, (hdata hpres).symm.trans h16, rfl⟩)

/-- Masking a word twice gives it back. -/
theorem xor_mask_mask (c x : Word) : (c ^^^ x) ^^^ c = x := by
  rw [BitVec.xor_comm c, BitVec.xor_assoc, BitVec.xor_self, BitVec.xor_zero]

/-- The bytes of the two words of a key are the key's. -/
theorem bytesLe64_keyWords {key : List Byte} (h : key.length = 16) :
    bytesLe64 (le (key.take 8)) ++ bytesLe64 (le ((key.drop 8).take 8)) = key := by
  have hlow : (key.take 8).length = 8 := by
    rw [List.length_take]
    omega
  have hhigh : (key.drop 8).length = 8 := by
    rw [List.length_drop]
    omega
  rw [List.take_of_length_le (Nat.le_of_eq hhigh), bytesLe64_le hlow, bytesLe64_le hhigh,
    List.take_append_drop]

/-- KEYREAD takes off the masks that KEYLOAD has put on (R90, R92). -/
theorem exec_keyread_of_setKey (hidle : s.upc = 0) (hexists : s.cfg.hasKeyread = true)
    (q : ReqFields) (data : Memory) (x0 x1 : Word) :
    exec (.keyread q data) ((s.setKey (keyC0 ^^^ x0) (keyC1 ^^^ x1)).respond .ok) =
      .next (((s.setKey (keyC0 ^^^ x0) (keyC1 ^^^ x1)).respond .ok).respond
        (.okKey (bytesLe64 x0 ++ bytesLe64 x1))) := by
  have hidle' : ((s.setKey (keyC0 ^^^ x0) (keyC1 ^^^ x1)).respond .ok).upc = 0 := hidle
  refine (exec_keyread_of_idle hidle' q data).trans (keyreadCommand_next.2 (.inr (.inr ?_)))
  exact ⟨hexists, rfl, keyC0 ^^^ x0, keyC1 ^^^ x1, rfl, rfl, by rw [xor_mask_mask, xor_mask_mask]⟩

/-- Settles O18: the two words KEYREAD unmasks are the buffer's. -/
theorem keyreadReturnsLoadedKey : Obligations.KeyreadReturnsLoadedKey := by
  intro q q' data data' s hidle hexists hpres hblen hlen
  obtain ⟨hloads, -⟩ := keyloadLoadsOrRejects q data s hidle fun _ => hlen.trans hblen.symm
  refine ⟨_, _, hloads hpres hblen, exec_keyread_of_setKey hidle hexists q' data' _ _, ?_⟩
  rw [bytesLe64_keyWords ((memBytes_length data).trans hlen)]
  exact List.append_assoc s.responses [.ok] [.okKey (memBytes data)]

end

end Sys2Proof.Machine

/-! The buffers' canonical form (log entry 11), which every step keeps and which is unique. -/

namespace Sys2Proof.Machine

/-- Only requests on offer before a step are on offer after it. -/
theorem step_offers_subset {s t : State} (h : step s = .next t) : ∀ o ∈ t.offers, o ∈ s.offers := by
  by_cases hidle : s.upc = 0
  · obtain ⟨-, -, -, rfl | ⟨-, k, o, -, hoffers, -⟩⟩ := idleFrame _ s t (execIdle_of_step hidle h)
    · exact fun _ ho => ho
    · rw [hoffers]
      exact fun _ ho => List.mem_of_mem_eraseIdx ho
  · obtain ⟨-, hoffers, -⟩ := step_busy_frame hidle h
    rw [hoffers.offers]
    exact fun _ ho => ho

/-- Settles O51: a step leaves the buffer, releases it, or attaches an offer's. -/
theorem stepKeepsCanonical : Obligations.StepKeepsCanonical := by
  refine ⟨⟨nofun, nofun⟩, fun s t hcanonical h =>
    ⟨?buffer, fun o ho => hcanonical.2 o (step_offers_subset h o ho)⟩⟩
  case buffer =>
    intro b hb
    obtain hmemory | ⟨-, hnone⟩ | ⟨-, o, ho, hdata⟩ := noStepWritesMemory s t h
    · exact hcanonical.1 b (hmemory.buf.symm.trans hb)
    · cases hnone.symm.trans hb
    · cases hdata.symm.trans hb
      exact hcanonical.2 o ho

section Cells

variable {lo lo' hi : Nat} {c d : Host.Cell} {cs ds : List Host.Cell}

theorem cellAt_head (c : Host.Cell) (cs : List Host.Cell) : cellAt (c :: cs) c.1 = c.2 := if_pos rfl

theorem cellAt_tail {a : Nat} (h : c.1 ≠ a) : cellAt (c :: cs) a = cellAt cs a := if_neg h

/-- The first cell's index is the first one with a byte other than 0. -/
theorem first_index_le (hc : cellsWf lo hi (c :: cs) = true) (hd : cellsWf lo' hi (d :: ds) = true)
    (h : ∀ a, a < hi → cellAt (c :: cs) a = cellAt (d :: ds) a) : d.1 ≤ c.1 := by
  obtain ⟨-, hlt, hne, -⟩ := cellsWf_cons.1 hc
  obtain ⟨-, hlt', hne', hds⟩ := cellsWf_cons.1 hd
  refine Nat.le_of_not_lt fun hbelow => hne ?_
  have hfrom : cellsWf d.1 hi (d :: ds) = true := cellsWf_cons.2 ⟨Nat.le_refl _, hlt', hne', hds⟩
  rw [← cellAt_head c cs, h c.1 hlt, cellAt_below hbelow hfrom]

/-- A canonical list of cells is determined by the bytes it gives the indices. -/
theorem cells_eq_of_cellAt (hc : cellsWf lo hi cs = true) (hd : cellsWf lo hi ds = true)
    (h : ∀ a, a < hi → cellAt cs a = cellAt ds a) : cs = ds := by
  induction cs generalizing lo ds with
  | nil =>
    cases ds with
    | nil => rfl
    | cons d ds =>
      obtain ⟨-, hlt, hne, -⟩ := cellsWf_cons.1 hd
      exact absurd ((cellAt_head d ds).symm.trans (h d.1 hlt).symm) hne
  | cons c cs ih =>
    obtain ⟨-, hlt, hne, hcs⟩ := cellsWf_cons.1 hc
    cases ds with
    | nil => exact absurd ((cellAt_head c cs).symm.trans (h c.1 hlt)) hne
    | cons d ds =>
      obtain ⟨-, -, -, hds⟩ := cellsWf_cons.1 hd
      have hindex : c.1 = d.1 := Nat.le_antisymm
        (first_index_le hd hc fun a ha => (h a ha).symm) (first_index_le hc hd h)
      have hbyte : c.2 = d.2 := by
        rw [← cellAt_head c cs, h c.1 hlt, hindex, cellAt_head]
      have hrest : cs = ds := by
        rw [← hindex] at hds
        refine ih hcs hds fun a ha => ?_
        by_cases hbelow : a < c.1 + 1
        · rw [cellAt_below hbelow hcs, cellAt_below hbelow hds]
        · rw [← cellAt_tail (c := c) (by omega), h a ha, cellAt_tail (by omega)]
      rw [hrest, Prod.ext hindex hbyte]

end Cells

theorem readByte_of_lt {b : Memory} {a : Nat} (h : a < b.len) :
    readByte b a = some (cellAt b.cells a) := if_pos h

/-- Settles O52: a byte that is read is `cellAt` of the cells. -/
theorem canonicalBuffersEqual : Obligations.CanonicalBuffersEqual := by
  intro b c hb hc hlen h
  have hcells : b.cells = c.cells := by
    rw [memWf, ← hlen] at hc
    refine cells_eq_of_cellAt hb hc fun a ha => Option.some_inj.1 ?_
    rw [← readByte_of_lt ha, ← readByte_of_lt (hlen ▸ ha), h]
  cases b
  cases c
  rw [Memory.mk.injEq]
  exact ⟨hlen, hcells⟩

end Sys2Proof.Machine

/-! The state invariants (R32): every step and every act of the outside keeps them, and with them a run
never stops (R176) and counts down to its end (R117). -/

namespace Sys2Proof.Machine

/-! Reset and the ports -/

theorem inv_resetEvent {s : State} (h : s.cfg.Wf) : Inv (resetEvent s) where
  cfg_wf := h
  base0_iff := by simp
  base1_iff := by simp
  idle_released _ := ⟨rfl, rfl⟩
  v0_iff := by simp
  v1_iff := by simp
  v2_iff := by simp
  v3_iff := by simp
  block_loaded := by simp
  running hbusy := absurd rfl hbusy

/-- Settles O2: the reset state is what the reset event makes of itself, and R5's default IDXW is 32. -/
theorem invHoldsAtReset : Obligations.InvHoldsAtReset :=
  inv_resetEvent (s := State.reset) (by decide)

/-- The invariants do not speak of the ports. -/
theorem inv_ports {s : State} (h : Inv s) (os : List Offer) (rs : List Response) (n : Nat) :
    Inv { s with offers := os, responses := rs, accepted := n } :=
  ⟨h.cfg_wf, h.base0_iff, h.base1_iff, h.idle_released, h.v0_iff, h.v1_iff, h.v2_iff, h.v3_iff,
    h.block_loaded, h.running⟩

/-- Settles O50: an offer touches the ports alone, and reset keeps the parameters. -/
theorem hostMovesKeepInv : Obligations.HostMovesKeepInv
  | .offer o, s, h => inv_ports h (s.offers ++ [o]) s.responses s.accepted
  | .reset, _, h => inv_resetEvent h.cfg_wf

/-! The IDLE step -/

theorem inv_setKey {s : State} (h : Inv s) (b0 b1 : Word) : Inv (s.setKey b0 b1) where
  cfg_wf := h.cfg_wf
  base0_iff := by simp
  base1_iff := by simp
  idle_released := h.idle_released
  v0_iff := h.v0_iff
  v1_iff := h.v1_iff
  v2_iff := h.v2_iff
  v3_iff := h.v3_iff
  block_loaded := h.block_loaded
  running hbusy := ⟨rfl, (h.running hbusy).2⟩

/-- At dispatch nothing of the range is read. -/
theorem runRange_dispatch {b : Memory} {p e : Nat} (hle : p ≤ e) (hend : e ≤ b.len) :
    RunRange 1 b p e p (lengthByte (e - p)) where
  start_le := Nat.le_refl p
  ptr_le := hle
  end_le := hend
  length_byte := lengthByte_toNat _
  whole_blocks _ := by rw [Nat.sub_self]
  block_left := nofun
  tail_left := nofun
  all_read h := absurd h (by decide)

theorem inv_dispatch {s : State} {b : Memory} {p e : Nat} (h : Inv s) (hidle : s.upc = 0)
    (hkey : s.keyvalid = true) (hle : p ≤ e) (hend : e ≤ b.len)
    (hlen : b.len < 2 ^ (s.cfg.idxw - 1)) :
    Inv ((s.attach b p e (lengthByte (e - p))).goto 1) where
  cfg_wf := h.cfg_wf
  base0_iff := h.base0_iff
  base1_iff := h.base1_iff
  idle_released := nofun
  v0_iff := h.v0_iff.trans (by simp [hidle])
  v1_iff := h.v1_iff.trans (by simp [hidle])
  v2_iff := h.v2_iff.trans (by simp [hidle])
  v3_iff := h.v3_iff.trans (by simp [hidle])
  block_loaded := by simp
  running _ := ⟨hkey, b, p, e, _, p, rfl, rfl, rfl, rfl, hlen, runRange_dispatch hle hend⟩

theorem inv_handleOffer {s t : State} {o : Offer} (h : Inv s) (hidle : s.upc = 0)
    (hnext : handleOffer hashEntry o s = .next t) : Inv t := by
  obtain ⟨r, -, rfl⟩ | ⟨-, -, rfl⟩ | ⟨hkey, hlen, p, e, hle, hend, rfl⟩ := handleOffer_outcome hnext
  · exact inv_ports h _ _ _
  · exact inv_ports (inv_setKey h _ _) _ _ _
  · exact inv_dispatch h hidle hkey hle hend (hlen ▸ reqFields_blen_lt _ _)

/-! The steps of a run -/

/-- All four words of the working state hold values. -/
structure HoldsWorking (s : State) : Prop where
  v0 : s.v0.isSome = true
  v1 : s.v1.isSome = true
  v2 : s.v2.isSome = true
  v3 : s.v3.isSome = true

theorem Inv.holdsWorking {s : State} {k : RomIndex} (h : Inv s) (hk : s.upc = k) (hlive : 2 ≤ k.val) :
    HoldsWorking s := by
  subst hk
  exact ⟨h.v0_iff.2 hlive, h.v1_iff.2 hlive, h.v2_iff.2 hlive, h.v3_iff.2 hlive⟩

/-- The range registers of a run in progress, as `Inv.running` gives them. -/
structure RunsOn (s : State) (b : Memory) (p e p0 : Nat) (l : Byte) : Prop where
  buf : s.buf = some b
  ptr : s.ptr = some p
  endp : s.endp = some e
  lenb : s.lenb = some l
  len_lt : b.len < 2 ^ (s.cfg.idxw - 1)
  range : RunRange s.upc b p e p0 l

theorem Inv.runsOn {s : State} (h : Inv s) (hbusy : s.upc ≠ 0) :
    s.keyvalid = true ∧ ∃ b p e l p0, RunsOn s b p e p0 l := by
  obtain ⟨hkey, b, p, e, l, p0, hb, hp, he, hl, hlen, hr⟩ :=
    h.running fun hz => hbusy (Fin.ext hz)
  exact ⟨hkey, b, p, e, l, p0, hb, hp, he, hl, hlen, hr⟩

/-- A state inside a run, from LOADV's next on, meets the invariants. -/
theorem inv_of_running {s t : State} {k : RomIndex} {b : Memory} {p e p0 : Nat} {l : Byte} (h : Inv s)
    (hengine : SameEngine s t) (hkey : s.keyvalid = true) (hupc : t.upc = k) (hlive : 2 ≤ k.val)
    (hworking : HoldsWorking t)
    (hblock : (4 ≤ k.val ∧ k.val ≤ 7) ∨ 9 ≤ k.val → t.m.isSome = true)
    (hruns : RunsOn t b p e p0 l) : Inv t := by
  subst hupc
  exact
    { cfg_wf := by rw [hengine.cfg]; exact h.cfg_wf
      base0_iff := by rw [hengine.base0, hengine.keyvalid]; exact h.base0_iff
      base1_iff := by rw [hengine.base1, hengine.keyvalid]; exact h.base1_iff
      idle_released := fun hz => by omega
      v0_iff := iff_of_true hworking.v0 hlive
      v1_iff := iff_of_true hworking.v1 hlive
      v2_iff := iff_of_true hworking.v2 hlive
      v3_iff := iff_of_true hworking.v3 hlive
      block_loaded := hblock
      running := fun _ => ⟨hengine.keyvalid.trans hkey, b, p, e, l, p0, hruns.buf, hruns.ptr,
        hruns.endp, hruns.lenb, hruns.len_lt, hruns.range⟩ }

/-- LOADV writes all four words, the others of the datapath leave none without a value. -/
theorem holdsWorking_datapath {i : Instr} {tgt : RomIndex} {s t : State} (hi : IsDatapath i tgt)
    (hworking : i = .loadv tgt ∨ HoldsWorking s) (h : exec i s = .next t) : HoldsWorking t := by
  obtain rfl | ⟨h0, h1, h2, h3⟩ := hworking
  · obtain ⟨b0, b1, -, -, rfl⟩ := execLoadv_next.1 h
    exact ⟨rfl, rfl, rfl, rfl⟩
  obtain rfl | rfl | rfl | rfl | rfl := hi
  · obtain ⟨b0, b1, -, -, rfl⟩ := execLoadv_next.1 h
    exact ⟨rfl, rfl, rfl, rfl⟩
  · obtain ⟨q, -, -, -, -, rfl⟩ := execRound_next.1 h
    exact ⟨rfl, rfl, rfl, rfl⟩
  · obtain ⟨a, m, -, -, rfl⟩ := execInj3_next.1 h
    exact ⟨h0, h1, h2, rfl⟩
  · obtain ⟨a, m, -, -, rfl⟩ := execInj0_next.1 h
    exact ⟨rfl, h1, h2, h3⟩
  · obtain ⟨a, -, rfl⟩ := execMark_next.1 h
    exact ⟨h0, h1, rfl, h3⟩

/-- R115's path from a datapath micro-operation, in numbers. -/
theorem afterDatapath_val : ∀ k, DatapathIndex k →
    (k.val = 7 ∧ (afterDatapath k).val = 2) ∨ (k.val ≠ 0 ∧ k.val ≠ 2 ∧ k.val ≠ 3 ∧ k.val ≠ 7 ∧
      k.val ≠ 8 ∧ k.val ≠ 18 ∧ (afterDatapath k).val = k.val + 1) := by decide

/-- Along the datapath's paths nothing of the range changes and TEST and LDFIN establish nothing new. -/
theorem runRange_afterDatapath {k : RomIndex} {b : Memory} {p e p0 : Nat} {l : Byte}
    (hk : DatapathIndex k) (h : RunRange k b p e p0 l) : RunRange (afterDatapath k) b p e p0 l := by
  have hpath := afterDatapath_val k hk
  exact { h with
    whole_blocks := fun _ => h.whole_blocks (by omega)
    block_left := fun _ => by omega
    tail_left := fun _ => by omega
    all_read := fun _ => h.all_read (by omega) }

theorem inv_datapath {s t : State} (h : Inv s) (hk : DatapathIndex s.upc)
    (hnext : exec (microInstr s.upc) s = .next t) : Inv t := by
  have hi := microInstr_isDatapath _ hk
  have hpath := afterDatapath_val _ hk
  obtain ⟨hengine, hrange, -, hmemory, -, hm, hupc⟩ := exec_datapath_frame hi hnext
  obtain ⟨hkey, b, p, e, l, p0, hruns⟩ := h.runsOn hk.1
  have hworking : HoldsWorking t := by
    refine holdsWorking_datapath hi ?_ hnext
    by_cases h1 : s.upc = 1
    · exact .inl ((microInstr_eq_loadv_iff _).2 h1)
    · have hval : s.upc.val ≠ 1 := fun hv => h1 (Fin.ext hv)
      exact .inr (h.holdsWorking rfl (by omega))
  have hruns' : RunsOn t b p e p0 l :=
    { buf := hmemory.buf.trans hruns.buf
      ptr := hrange.ptr.trans hruns.ptr
      endp := hrange.endp.trans hruns.endp
      lenb := hrange.lenb.trans hruns.lenb
      len_lt := by rw [hengine.cfg]; exact hruns.len_lt
      range := by rw [hupc]; exact runRange_afterDatapath hk hruns.range }
  refine inv_of_running h hengine hkey hupc (by omega) hworking (fun hblock => ?_) hruns'
  rw [hm]
  exact h.block_loaded (by omega)

/-! TEST, LDBLK, LDFIN and FOLD at their indices -/

section Range

variable {b : Memory} {p e p0 : Nat} {l : Byte}

theorem runRange_block_left (h : RunRange 2 b p e p0 l) (hfull : p + 8 ≤ e) :
    RunRange 3 b p e p0 l :=
  { h with
    whole_blocks := fun _ => h.whole_blocks (by decide)
    block_left := fun _ => by omega
    tail_left := nofun
    all_read := fun hk => absurd hk (by decide) }

theorem runRange_tail_left (h : RunRange 2 b p e p0 l) (hshort : e < p + 8) :
    RunRange 8 b p e p0 l :=
  { h with
    whole_blocks := fun _ => h.whole_blocks (by decide)
    block_left := nofun
    tail_left := fun _ => by omega
    all_read := fun hk => absurd hk (by decide) }

theorem runRange_ldblk (h : RunRange 3 b p e p0 l) : RunRange 4 b (p + 8) e p0 l := by
  have hstart := h.start_le
  have hblocks := h.whole_blocks (by decide)
  have hleft := h.block_left rfl
  exact { h with
    start_le := by omega
    ptr_le := by omega
    whole_blocks := fun _ => by omega
    block_left := nofun
    tail_left := nofun
    all_read := fun hk => absurd hk (by decide) }

theorem runRange_ldfin (h : RunRange 8 b p e p0 l) : RunRange 9 b e e p0 l :=
  { h with
    start_le := Nat.le_trans h.start_le h.ptr_le
    ptr_le := Nat.le_refl e
    whole_blocks := fun hk => absurd hk (by decide)
    block_left := nofun
    tail_left := nofun
    all_read := fun _ => rfl }

end Range

section Loader

variable {s t : State} (h : Inv s)
include h

theorem inv_test (hk : s.upc = 2) (hnext : execTest 8 s = .next t) : Inv t := by
  obtain ⟨hkey, b, p, e, l, p0, hb, hp, he, hl, hlen, hrange⟩ := h.runsOn (hk ▸ by decide)
  obtain ⟨h0, h1, h2, h3⟩ := h.holdsWorking hk (by decide)
  rw [hk] at hrange
  obtain ⟨e', p', he', hp', ht⟩ := execTest_next_of_loop hk hnext
  cases he.symm.trans he'
  cases hp.symm.trans hp'
  obtain ⟨hfull, rfl⟩ | ⟨hshort, rfl⟩ := ht
  · exact inv_of_running (k := 3) h ⟨rfl, rfl, rfl, rfl⟩ hkey rfl (by decide) ⟨h0, h1, h2, h3⟩
      (fun hk => absurd hk (by decide)) ⟨hb, hp, he, hl, hlen, runRange_block_left hrange hfull⟩
  · exact inv_of_running (k := 8) h ⟨rfl, rfl, rfl, rfl⟩ hkey rfl (by decide) ⟨h0, h1, h2, h3⟩
      (fun hk => absurd hk (by decide)) ⟨hb, hp, he, hl, hlen, runRange_tail_left hrange hshort⟩

theorem inv_ldblk (hk : s.upc = 3) (hnext : execLdblk 4 s = .next t) : Inv t := by
  obtain ⟨hkey, b, p, e, l, p0, hb, hp, he, hl, hlen, hrange⟩ := h.runsOn (hk ▸ by decide)
  obtain ⟨h0, h1, h2, h3⟩ := h.holdsWorking hk (by decide)
  rw [hk] at hrange
  obtain ⟨b', p', bs, -, hp', -, rfl⟩ := execLdblk_next.1 hnext
  cases hp.symm.trans hp'
  exact inv_of_running (k := 4) h ⟨rfl, rfl, rfl, rfl⟩ hkey rfl (by decide) ⟨h0, h1, h2, h3⟩ (fun _ => rfl)
    ⟨hb, rfl, he, hl, hlen, runRange_ldblk hrange⟩

theorem inv_ldfin (hk : s.upc = 8) (hnext : execLdfin 9 s = .next t) : Inv t := by
  obtain ⟨hkey, b, p, e, l, p0, hb, hp, he, hl, hlen, hrange⟩ := h.runsOn (hk ▸ by decide)
  obtain ⟨h0, h1, h2, h3⟩ := h.holdsWorking hk (by decide)
  rw [hk] at hrange
  obtain ⟨b', p', e', l', bs, -, -, he', -, -, -, -, rfl⟩ := execLdfin_next.1 hnext
  cases he.symm.trans he'
  exact inv_of_running (k := 9) h ⟨rfl, rfl, rfl, rfl⟩ hkey rfl (by decide) ⟨h0, h1, h2, h3⟩ (fun _ => rfl)
    ⟨hb, rfl, he, hl, hlen, runRange_ldfin hrange⟩

/-- FOLD releases what the idle engine does not hold (R141). -/
theorem inv_fold (hnext : execFold 0 s = .next t) : Inv t := by
  obtain ⟨q, -, -, -, -, rfl⟩ := execFold_next.1 hnext
  exact
    { cfg_wf := h.cfg_wf
      base0_iff := h.base0_iff
      base1_iff := h.base1_iff
      idle_released := fun _ => ⟨rfl, rfl⟩
      v0_iff := by simp
      v1_iff := by simp
      v2_iff := by simp
      v3_iff := by simp
      block_loaded := by simp
      running := fun hbusy => absurd rfl hbusy }

end Loader

/-- Settles O49: each of the six kinds of step has its lemma. -/
theorem stepKeepsInv : Obligations.StepKeepsInv := by
  intro s t h hstep
  cases step_cases hstep with
  | idle hk hnext =>
    obtain rfl | ⟨-, o, rest, -, hnext⟩ := execIdle_outcome hnext
    · exact h
    · exact inv_handleOffer (inv_ports h rest s.responses (s.accepted + 1)) hk hnext
  | test hk hnext => exact inv_test h hk hnext
  | ldblk hk hnext => exact inv_ldblk h hk hnext
  | ldfin hk hnext => exact inv_ldfin h hk hnext
  | fold hk hnext => exact inv_fold h hnext
  | datapath hk hnext => exact inv_datapath h hk hnext

/-! No run stops (R176, R203) -/

/-- A datapath micro-operation answers a next state where its operands hold values. -/
theorem exec_datapath_runs {i : Instr} {tgt : RomIndex} {s : State} (hi : IsDatapath i tgt)
    (hkey : i = .loadv tgt → s.base0.isSome = true ∧ s.base1.isSome = true)
    (hlive : i ≠ .loadv tgt → HoldsWorking s)
    (hblock : i = .inj3 tgt ∨ i = .inj0 tgt → s.m.isSome = true) : ∃ t, exec i s = .next t := by
  by_cases hload : i = .loadv tgt
  · obtain ⟨h0, h1⟩ := hkey hload
    obtain ⟨b0, h0⟩ := Option.isSome_iff_exists.1 h0
    obtain ⟨b1, h1⟩ := Option.isSome_iff_exists.1 h1
    exact ⟨_, hload ▸ loadvCreatesWorkingState tgt s b0 b1 h0 h1⟩
  obtain ⟨h0, h1, h2, h3⟩ := hlive hload
  obtain ⟨a0, h0⟩ := Option.isSome_iff_exists.1 h0
  obtain ⟨a1, h1⟩ := Option.isSome_iff_exists.1 h1
  obtain ⟨a2, h2⟩ := Option.isSome_iff_exists.1 h2
  obtain ⟨a3, h3⟩ := Option.isSome_iff_exists.1 h3
  obtain rfl | rfl | rfl | rfl | rfl := hi
  · exact absurd rfl hload
  · exact ⟨_, roundAppliesSipRound tgt s a0 a1 a2 a3 h0 h1 h2 h3⟩
  · obtain ⟨m, hm⟩ := Option.isSome_iff_exists.1 (hblock (.inl rfl))
    exact ⟨_, inj3InjectsBlock tgt s a3 m h3 hm⟩
  · obtain ⟨m, hm⟩ := Option.isSome_iff_exists.1 (hblock (.inr rfl))
    exact ⟨_, inj0InjectsBlock tgt s a0 m h0 hm⟩
  · exact ⟨_, markSeparatesFinalization tgt s a2 h2⟩

theorem step_runs_datapath {s : State} (h : Inv s) (hk : DatapathIndex s.upc) :
    ∃ t, exec (microInstr s.upc) s = .next t := by
  have hpath := afterDatapath_val _ hk
  obtain ⟨hkey, -⟩ := h.runsOn hk.1
  have hlate (hne : microInstr s.upc ≠ .loadv (afterDatapath s.upc)) : s.upc.val ≠ 1 :=
    fun hv => hne ((microInstr_eq_loadv_iff _).2 (Fin.ext hv))
  refine exec_datapath_runs (microInstr_isDatapath _ hk)
    (fun _ => ⟨h.base0_iff.2 hkey, h.base1_iff.2 hkey⟩) (fun hne => ?working) (fun hinj => ?block)
  case working =>
    have h1 := hlate hne
    exact h.holdsWorking rfl (by omega)
  case block =>
    have hne : microInstr s.upc ≠ .loadv (afterDatapath s.upc) := by
      obtain hinj | hinj := hinj <;> rw [hinj] <;> nofun
    have h1 := hlate hne
    exact h.block_loaded (by omega)

theorem step_runs_busy {s : State} (h : Inv s) (hbusy : s.upc ≠ 0) : ∃ t, step s = .next t := by
  obtain ⟨hkey, b, p, e, l, p0, hb, hp, he, hl, hlen, hrange⟩ := h.runsOn hbusy
  have hle := hrange.ptr_le
  have hend := hrange.end_le
  rw [step_eq_exec]
  obtain hk | hk | hk | hk | hk | hk := romIndex_cases s.upc
  · exact absurd hk hbusy
  · obtain ⟨hfull, hshort⟩ := testBranches 8 s p e hp he
    rw [hk]
    by_cases hblock : (e : Int) - p ≥ 8
    · exact ⟨_, hfull hblock 3 (by rw [hk]; rfl)⟩
    · exact ⟨_, hshort (by omega)⟩
  · have hleft := hrange.block_left (by rw [hk]; rfl)
    rw [hk]
    exact ⟨_, ldblkLoadsBlock 4 s b p hb hp (by omega)⟩
  · have htail := hrange.tail_left (by rw [hk]; rfl)
    rw [hk]
    exact ⟨_, ldfinBuildsFinalBlock 9 s b p e l hb hp he hl hle htail hend⟩
  · obtain ⟨h0, h1, h2, h3⟩ := h.holdsWorking hk (by decide)
    obtain ⟨a0, h0⟩ := Option.isSome_iff_exists.1 h0
    obtain ⟨a1, h1⟩ := Option.isSome_iff_exists.1 h1
    obtain ⟨a2, h2⟩ := Option.isSome_iff_exists.1 h2
    obtain ⟨a3, h3⟩ := Option.isSome_iff_exists.1 h3
    rw [hk]
    exact ⟨_, foldAnswersTag 0 s a0 a1 a2 a3 h0 h1 h2 h3⟩
  · exact step_runs_datapath h hk

/-- Every command of an honest host gets a next state in the idle engine. -/
theorem exec_command_runs {s : State} {q : ReqFields} {data : Memory} (c : Cmd) (hidle : s.upc = 0)
    (hbase0 : s.keyvalid = true → s.base0.isSome = true)
    (hbase1 : s.keyvalid = true → s.base1.isSome = true) (hhonest : q.Honest data) :
    ∃ t, exec (c.instr q data) s = .next t := by
  cases c with
  | keyload =>
    obtain ⟨hloads, hrejects⟩ := keyloadLoadsOrRejects q data s hidle hhonest
    by_cases hgood : q.pres = true ∧ q.blen = 16
    · exact ⟨_, hloads hgood.1 hgood.2⟩
    · refine ⟨_, hrejects ?_⟩
      cases hpres : q.pres with
      | false => exact .inl rfl
      | true => exact .inr fun hlen => hgood ⟨hpres, hlen⟩
  | keyread =>
    obtain ⟨hmissing, hnoKey, hread⟩ := keyreadAnswersKey q data s hidle
    cases hexists : s.cfg.hasKeyread with
    | false => exact ⟨_, hmissing hexists⟩
    | true =>
      cases hkey : s.keyvalid with
      | false => exact ⟨_, hnoKey hexists hkey⟩
      | true =>
        obtain ⟨b0, h0⟩ := Option.isSome_iff_exists.1 (hbase0 hkey)
        obtain ⟨b1, h1⟩ := Option.isSome_iff_exists.1 (hbase1 hkey)
        exact ⟨_, hread b0 b1 hexists hkey h0 h1⟩
  | hash =>
    obtain ⟨hnoKey, habsent, hstarts⟩ := hashStartsRun q data s hidle hhonest
    cases hkey : s.keyvalid with
    | false => exact ⟨_, hnoKey hkey⟩
    | true =>
      cases hpres : q.pres with
      | false => exact ⟨_, habsent hkey hpres⟩
      | true => exact ⟨_, hstarts hkey hpres⟩
  | hashr =>
    obtain ⟨hnoKey, habsent, hbad, hstarts⟩ := hashrStartsRun q data s hidle hhonest
    cases hkey : s.keyvalid with
    | false => exact ⟨_, hnoKey hkey⟩
    | true =>
      cases hpres : q.pres with
      | false => exact ⟨_, habsent hkey hpres⟩
      | true =>
        by_cases hrange : q.off < 0 ∨ q.cnt < 0 ∨ q.off + q.cnt > data.len
        · exact ⟨_, hbad hkey hpres hrange⟩
        · exact ⟨_, hstarts q.off.toNat q.cnt.toNat hkey hpres (by omega) (by omega) (by omega)⟩

theorem handleOffer_runs {s : State} {o : Offer} (hidle : s.upc = 0)
    (hbase0 : s.keyvalid = true → s.base0.isSome = true)
    (hbase1 : s.keyvalid = true → s.base1.isSome = true) (hhonest : o.Honest s.cfg) :
    ∃ t, handleOffer hashEntry o s = .next t := by
  obtain ⟨hlen, hdata⟩ := hhonest
  cases hop : decodeOp s.cfg (o.desc % 256) with
  | none => exact ⟨_, handleOffer_of_decodeOp_none hlen hop⟩
  | some c =>
    have hcmd : decodeCmd s.cfg o.desc = .ok c := by rw [decodeCmd_of_lt hlen, hop]
    rw [handleOffer_eq_exec hidle hcmd]
    exact exec_command_runs c hidle hbase0 hbase1 hdata

theorem step_runs_idle {s : State} (h : Inv s) (hidle : s.upc = 0) (hhonest : s.OffersHonest) :
    ∃ t, step s = .next t := by
  by_cases hnone : s.offers = []
  · exact ⟨s, (step_of_idle hidle).trans (execIdle_next.2 (.inr (.inl ⟨hidle, hnone, rfl⟩)))⟩
  · obtain ⟨o, rest, haccepts⟩ := State.exists_accepts hnone
    rw [step_of_accepts hidle haccepts]
    exact handleOffer_runs (s := s.accept rest) hidle h.base0_iff.2 h.base1_iff.2
      (hhonest o haccepts.mem)

theorem step_keeps_offersHonest {s t : State} (hhonest : s.OffersHonest) (h : step s = .next t) :
    t.OffersHonest := by
  obtain ⟨hcfg, -⟩ := stepKeepsParamsAndKeyvalid s t h
  intro o ho
  rw [hcfg]
  exact hhonest o (step_offers_subset h o ho)

/-- Settles O53: a busy step finds its operands by the invariants, an idle one by the host's contract. -/
theorem runNeverStops : Obligations.RunNeverStops := by
  refine ⟨fun s => step_runs_busy, fun s h hhonest => ?honestHosts⟩
  case honestHosts =>
    obtain ⟨t, hstep⟩ : ∃ t, step s = .next t := by
      by_cases hidle : s.upc = 0
      · exact step_runs_idle h hidle hhonest
      · exact step_runs_busy h hidle
    exact ⟨t, hstep, step_keeps_offersHonest hhonest hstep⟩

/-! The end of a run (R117) -/

theorem stepsLeft_head {k : RomIndex} {n : Nat} (h : 1 ≤ k.val ∧ k.val ≤ 3) :
    stepsLeft k n + k.val = 14 + 6 * (n / 8) := by
  obtain hk | hk | hk : k.val = 1 ∨ k.val = 2 ∨ k.val = 3 := by omega
  all_goals
    simp only [stepsLeft, hk]
    omega

theorem stepsLeft_body {k : RomIndex} {n : Nat} (h : 4 ≤ k.val ∧ k.val ≤ 7) :
    stepsLeft k n + k.val = 20 + 6 * (n / 8) := by
  obtain hk | hk | hk | hk : k.val = 4 ∨ k.val = 5 ∨ k.val = 6 ∨ k.val = 7 := by omega
  all_goals
    simp only [stepsLeft, hk]
    omega

theorem stepsLeft_tail {k : RomIndex} {n : Nat} (h : 8 ≤ k.val) : stepsLeft k n + k.val = 19 := by
  have hk := k.isLt
  unfold stepsLeft
  split <;> omega

/-- The count around the loop test and the load of a block. -/
theorem stepsLeft_loop (n : Nat) : stepsLeft 2 n = 12 + 6 * (n / 8) ∧
    stepsLeft 3 n = 11 + 6 * (n / 8) ∧ stepsLeft 4 n = 16 + 6 * (n / 8) := ⟨rfl, rfl, rfl⟩

theorem stepsLeft_afterDatapath {k : RomIndex} (hk : DatapathIndex k) (n : Nat) :
    stepsLeft (afterDatapath k) n + 1 = stepsLeft k n := by
  obtain ⟨h7, hafter⟩ | hpath := afterDatapath_val k hk
  · have hbody := stepsLeft_body (k := k) (n := n) (by omega)
    have hhead := stepsLeft_head (k := afterDatapath k) (n := n) (by omega)
    omega
  by_cases h1 : k.val = 1
  · have hhead := stepsLeft_head (k := k) (n := n) (by omega)
    have hhead' := stepsLeft_head (k := afterDatapath k) (n := n) (by omega)
    omega
  by_cases hbody : k.val ≤ 6
  · have hbody := stepsLeft_body (k := k) (n := n) (by omega)
    have hbody' := stepsLeft_body (k := afterDatapath k) (n := n) (by omega)
    omega
  · have htail := stepsLeft_tail (k := k) (n := n) (by omega)
    have htail' := stepsLeft_tail (k := afterDatapath k) (n := n) (by omega)
    omega

/-- Settles O57: the range moves at LDBLK and LDFIN alone, and TEST leaves the loop with fewer than
eight bytes left. -/
theorem stepsLeftCountDown : Obligations.StepsLeftCountDown := by
  intro s t p e p' e' h hbusy hstep hp he hp' he'
  obtain ⟨-, b, q, f, l, p0, -, hq, hf, -, -, hrange⟩ := h.runsOn hbusy
  cases hp.symm.trans hq
  cases he.symm.trans hf
  cases step_cases hstep with
  | idle hk hnext => exact absurd hk hbusy
  | test hk hnext =>
    obtain ⟨f, q, hf, hq, ht⟩ := execTest_next_of_loop hk hnext
    cases hp.symm.trans hq
    cases he.symm.trans hf
    rw [hk]
    obtain ⟨hfull, rfl⟩ | ⟨hshort, rfl⟩ := ht
    · cases hp.symm.trans hp'
      cases he.symm.trans he'
      obtain ⟨htest, hload, -⟩ := stepsLeft_loop (e - p)
      rw [State.goto_upc, htest, hload]
      omega
    · cases hp.symm.trans hp'
      cases he.symm.trans he'
      have hnone : (e - p) / 8 = 0 := Nat.div_eq_of_lt (by omega)
      obtain ⟨htest, -, -⟩ := stepsLeft_loop (e - p)
      rw [htest, hnone]
      rfl
  | ldblk hk hnext =>
    obtain ⟨c, q, bs, -, hq, -, rfl⟩ := execLdblk_next.1 hnext
    cases hp.symm.trans hq
    cases hp'
    cases he.symm.trans he'
    have hleft := hrange.block_left (by rw [hk]; rfl)
    have hdiv : (e - (p + 8)) / 8 + 1 = (e - p) / 8 := by omega
    obtain ⟨-, hload, -⟩ := stepsLeft_loop (e - p)
    obtain ⟨-, -, hbody⟩ := stepsLeft_loop (e - (p + 8))
    rw [hk, State.goto_upc, hload, hbody]
    omega
  | ldfin hk hnext =>
    obtain ⟨c, q, f, l', bs, -, -, -, -, -, -, -, rfl⟩ := execLdfin_next.1 hnext
    rw [hk]
    rfl
  | fold hk hnext =>
    obtain ⟨q, -, -, -, -, rfl⟩ := execFold_next.1 hnext
    rw [hk]
    rfl
  | datapath hk hnext =>
    obtain ⟨-, hrange, -, -, -, -, hupc⟩ := exec_datapath_frame (microInstr_isDatapath _ hk) hnext
    cases hp.symm.trans (hrange.ptr.symm.trans hp')
    cases he.symm.trans (hrange.endp.symm.trans he')
    rw [hupc]
    exact stepsLeft_afterDatapath hk _

end Sys2Proof.Machine

/-! The operators of R9, R12 and R135, and the response descriptor read back (R76). -/

namespace Sys2Proof.Machine

/-! Rotation and the round function -/

/-- Bit `i` of a word is bit `(i+n) mod 64` of its rotation: it comes from the left shift where it is not
pushed out, from the right shift where it is. -/
theorem getLsbD_rotl64 (x : Word) {n i : Nat} (hn : n ≤ 63) (hi : i < 64) :
    (rotl64 x n).getLsbD ((i + n) % 64) = x.getLsbD i := by
  rw [rotl64, BitVec.getLsbD_or, BitVec.getLsbD_shiftLeft, BitVec.getLsbD_ushiftRight]
  by_cases hstays : i + n < 64
  · have hout : x.getLsbD (64 - n + (i + n)) = false := x.getLsbD_of_ge _ (by omega)
    rw [Nat.mod_eq_of_lt hstays, hout, Nat.add_sub_cancel, Bool.or_false]
    simp [hstays]
  · have hwrap : (i + n) % 64 = i + n - 64 := by omega
    have hindex : 64 - n + (i + n - 64) = i := by omega
    have hlow : i + n - 64 < n := by omega
    rw [hwrap, hindex]
    simp [hlow]

/-- Settles O13: the formula is R9's on naturals, the bits are by `getLsbD_rotl64`. -/
theorem rotationMovesBits : Obligations.RotationMovesBits := by
  intro x n _ hn
  refine ⟨?formula, fun i hi => getLsbD_rotl64 x hn hi⟩
  case formula =>
    rw [rotl64, BitVec.toNat_or, BitVec.toNat_shiftLeft, BitVec.toNat_ushiftRight]

/-- Two rotations by 64 bits in all undo each other. -/
theorem rotl64_rotl64 (x : Word) {n m : Nat} (hn : 1 ≤ n) (hm : 1 ≤ m) (h : n + m = 64) :
    rotl64 (rotl64 x n) m = x := by
  apply BitVec.eq_of_getLsbD_eq
  intro i hi
  have hback : ((i + n) % 64 + m) % 64 = i := by omega
  calc (rotl64 (rotl64 x n) m).getLsbD i
      = (rotl64 (rotl64 x n) m).getLsbD (((i + n) % 64 + m) % 64) := by rw [hback]
    _ = (rotl64 x n).getLsbD ((i + n) % 64) := getLsbD_rotl64 _ (by omega) (by omega)
    _ = x.getLsbD i := getLsbD_rotl64 x (by omega) hi

/-- R135's listing backwards, line by line. -/
def sipRoundInverse (a : Quad) : Quad :=
  let d2 := rotl64 a.v2 32
  let c1 := rotl64 (a.v1 ^^^ d2) 47
  let c3 := rotl64 (a.v3 ^^^ a.v0) 43
  let b0 := rotl64 (a.v0 - c3) 32
  let b2 := d2 - c1
  let v1 := rotl64 (c1 ^^^ b0) 51
  let v3 := rotl64 (c3 ^^^ b2) 48
  { v0 := b0 - v1, v1 := v1, v2 := b2 - v3, v3 := v3 }

theorem xor_xor_cancel (x y : Word) : (x ^^^ y) ^^^ y = x := by
  rw [BitVec.xor_assoc, BitVec.xor_self, BitVec.xor_zero]

theorem sipRoundInverse_sipRound (a : Quad) : sipRoundInverse (sipRound a) = a := by
  simp only [sipRound, sipRoundInverse, xor_xor_cancel, BitVec.add_sub_cancel,
    rotl64_rotl64 _ (n := 13) (m := 51) (by decide) (by decide) rfl,
    rotl64_rotl64 _ (n := 16) (m := 48) (by decide) (by decide) rfl,
    rotl64_rotl64 _ (n := 17) (m := 47) (by decide) (by decide) rfl,
    rotl64_rotl64 _ (n := 21) (m := 43) (by decide) (by decide) rfl,
    rotl64_rotl64 _ (n := 32) (m := 32) (by decide) (by decide) rfl]

theorem sipRound_sipRoundInverse (a : Quad) : sipRound (sipRoundInverse a) = a := by
  simp only [sipRound, sipRoundInverse, xor_xor_cancel, BitVec.sub_add_cancel,
    rotl64_rotl64 _ (n := 51) (m := 13) (by decide) (by decide) rfl,
    rotl64_rotl64 _ (n := 48) (m := 16) (by decide) (by decide) rfl,
    rotl64_rotl64 _ (n := 47) (m := 17) (by decide) (by decide) rfl,
    rotl64_rotl64 _ (n := 43) (m := 21) (by decide) (by decide) rfl,
    rotl64_rotl64 _ (n := 32) (m := 32) (by decide) (by decide) rfl]

/-- Settles O14: `sipRoundInverse` undoes the round function on both sides. -/
theorem sipRoundBijective : Obligations.SipRoundBijective := by
  refine ⟨fun b => ⟨sipRoundInverse b, sipRound_sipRoundInverse b, fun a' ha' => ?unique⟩, by decide⟩
  case unique => rw [← ha', sipRoundInverse_sipRound]

end Sys2Proof.Machine

namespace Sys2Proof

/-! The response descriptor -/

/-- A field below bit 8 is one of the flags. -/
theorem Response.extractLsb'_encode_low (r : Response) {lo n : Nat} (h : lo + n ≤ 8) :
    r.encode.extractLsb' lo n = r.flags.extractLsb' lo n := by
  rw [r.encode_eq_payload_append_flags, BitVec.extractLsb'_append_eq_of_add_le h]

theorem Response.getLsbD_encode_low (r : Response) {i : Nat} (h : i < 8) :
    r.encode.getLsbD i = r.flags.getLsbD i := by
  rw [r.encode_eq_payload_append_flags, BitVec.getLsbD_append, if_pos h]

/-- The bytes of a key's number are the key (R76). -/
theorem numberBytes_keyNumber (k : List Byte) : numberBytes k.length (keyNumber k) = k := by
  induction k with
  | nil => rfl
  | cons b bs ih =>
    have hb : b.toNat < 2 ^ 8 := b.isLt
    have hlow : BitVec.ofNat 8 (b.toNat + 2 ^ 8 * keyNumber bs) = b := by
      apply BitVec.eq_of_toNat_eq
      rw [BitVec.toNat_ofNat, Nat.add_mul_mod_self_left, Nat.mod_eq_of_lt hb]
    have hrest : (b.toNat + 2 ^ 8 * keyNumber bs) / 2 ^ 8 = keyNumber bs := by omega
    rw [keyNumber, List.length_cons, numberBytes, hlow, hrest, ih]

theorem Response.decode_encode_okTag (t : Word) :
    Response.decode (Response.okTag t).encode = some (.okTag t) := by
  obtain ⟨hlow, hhigh⟩ := Response.extractLsb'_payload_okTag t
  have htag := ((Response.okTag t).extractLsb'_encode_payload 0 64).trans hlow
  have hzero := ((Response.okTag t).extractLsb'_encode_payload 64 64).trans hhigh
  rw [Response.decode, Response.extractLsb'_encode_low _ (by decide),
    Response.extractLsb'_encode_low _ (by decide), Response.getLsbD_encode_low _ (by decide),
    Response.getLsbD_encode_low _ (by decide), Response.flags_okTag, htag, hzero]
  rfl

theorem Response.decode_encode_okKey {k : List Byte} (hk : k.length = 16) :
    Response.decode (Response.okKey k).encode = some (.okKey k) := by
  have hfit : keyNumber k < 2 ^ 128 := by
    simpa only [hk] using keyNumber_lt k
  have hpayload : (Response.okKey k).encode.extractLsb' 8 128 = BitVec.ofNat 128 (keyNumber k) :=
    ((Response.okKey k).extractLsb'_encode_payload 0 128).trans BitVec.extractLsb'_eq_self
  have hbytes : numberBytes 16 (BitVec.ofNat 128 (keyNumber k)).toNat = k := by
    rw [BitVec.toNat_ofNat, Nat.mod_eq_of_lt hfit, ← hk, numberBytes_keyNumber]
  rw [Response.decode, Response.extractLsb'_encode_low _ (by decide),
    Response.extractLsb'_encode_low _ (by decide), Response.getLsbD_encode_low _ (by decide),
    Response.getLsbD_encode_low _ (by decide), Response.flags_okKey, hpayload, hbytes]
  rfl

end Sys2Proof

namespace Sys2Proof.Machine

/-- Settles O10: a tag and a key are read from the payload, the other descriptors are closed. -/
theorem responseRoundTrip : Obligations.ResponseRoundTrip := by
  intro r hr
  cases r with
  | ok => decide
  | okTag t => exact Response.decode_encode_okTag t
  | okKey k => exact Response.decode_encode_okKey hr
  | error e => cases e <;> decide

end Sys2Proof.Machine

/-! The block loader (R126 to R128): what it reads, the bytes of a block, and the message back from its
blocks. -/

namespace Sys2Proof.Machine

/-! A read depends on the range alone (R58, R61) -/

theorem memRead_congr {b c : Memory} {a n : Nat} (hb : a + n ≤ b.len) (hc : a + n ≤ c.len)
    (h : ∀ x, a ≤ x → x < a + n → readByte c x = readByte b x) : memRead c a n = memRead b a n := by
  rw [memRead_of_le hb, memRead_of_le hc, Option.some_inj]
  refine List.map_congr_left fun i hi => ?_
  have hlt : a + i < a + n := Nat.add_lt_add_left (List.mem_range.1 hi) a
  have hbyte := h (a + i) (Nat.le_add_right a i) hlt
  rwa [readByte_of_lt (by omega), readByte_of_lt (by omega), Option.some_inj] at hbyte

/-- Settles O34: both reads lie in the message range, where `memRead_congr` compares the buffers. -/
theorem loaderReadsOnlyMessage : Obligations.LoaderReadsOnlyMessage := by
  intro tgt s t b c p e hbuf hptr hendp hb hc h
  refine ⟨fun hfull hnext => ?ldblk, fun hnext => ?ldfin⟩
  case ldblk =>
    obtain ⟨b', p', bs, hbuf', hptr', hread, rfl⟩ := execLdblk_next.1 hnext
    cases hbuf.symm.trans hbuf'
    cases hptr.symm.trans hptr'
    have hsame : memRead c p 8 = memRead b p 8 :=
      memRead_congr (by omega) (by omega) fun x hx hlt => h x hx (by omega)
    exact execLdblk_next.2 ⟨c, p, bs, rfl, hptr, hsame.trans hread, rfl⟩
  case ldfin =>
    obtain ⟨b', p', e', l, bs, hbuf', hptr', hendp', hlenb, hle, hshort, hread, rfl⟩ :=
      execLdfin_next.1 hnext
    cases hbuf.symm.trans hbuf'
    cases hptr.symm.trans hptr'
    cases hendp.symm.trans hendp'
    have hsame : memRead c p (e - p) = memRead b p (e - p) :=
      memRead_congr (by omega) (by omega) fun x hx hlt => h x hx (by omega)
    exact execLdfin_next.2
      ⟨c, p, e, l, bs, rfl, hptr, hendp, hlenb, hle, hshort, hsame.trans hread, rfl⟩

/-! The bytes of a word -/

/-- Byte `i` of `le` is byte `i` of the list, 0 past its end (R12). -/
theorem extractLsb'_le (bs : List Byte) {i : Nat} (hi : i < 8) :
    (le bs).extractLsb' (8 * i) 8 = bs.getD i 0 := by
  apply BitVec.eq_of_getLsbD_eq
  intro j hj
  have hdiv : (8 * i + j) / 8 = i := by omega
  have hmod : (8 * i + j) % 8 = j := by omega
  rw [BitVec.getLsbD_extractLsb', getLsbD_le bs (by omega), hdiv, hmod, decide_eq_true hj,
    Bool.true_and]

theorem getD_of_length_le {bs : List Byte} {i : Nat} (h : bs.length ≤ i) : bs.getD i 0 = 0 := by
  rw [List.getD_eq_getElem?_getD, List.getElem?_eq_none h, Option.getD_none]

/-- Lists of equal length with the same byte at every index are equal. -/
theorem eq_of_getD {bs cs : List Byte} (hlen : bs.length = cs.length)
    (h : ∀ i, i < bs.length → bs.getD i 0 = cs.getD i 0) : bs = cs := by
  apply List.ext_getElem hlen
  intro i hb hc
  simpa only [List.getD_eq_getElem?_getD, List.getElem?_eq_getElem hb, List.getElem?_eq_getElem hc,
    Option.getD_some] using h i hb

/-- A block with the length byte on top and trailing bytes below, as LDFIN builds it (R127). -/
def paddedBlock (l : Byte) (bs : List Byte) : Word := (l.zeroExtend 64 <<< 56) ||| le bs

/-- The length byte moved to the top leaves the bytes below it 0. -/
theorem extractLsb'_lengthByte_low (l : Byte) {i : Nat} (hi : i ≤ 6) :
    (l.zeroExtend 64 <<< 56).extractLsb' (8 * i) 8 = 0 := by
  apply BitVec.eq_of_getLsbD_eq
  intro j hj
  have hbelow : 8 * i + j < 56 := by omega
  simp [hbelow]

theorem extractLsb'_lengthByte_top (l : Byte) :
    (l.zeroExtend 64 <<< 56).extractLsb' (8 * 7) 8 = l := by
  apply BitVec.eq_of_getLsbD_eq
  intro j hj
  have hword : 56 + j < 64 := by omega
  have hindex : 56 + j - 56 = j := by omega
  simp [hj, hword, hindex]

theorem extractLsb'_paddedBlock_low (l : Byte) (bs : List Byte) {i : Nat} (hi : i ≤ 6) :
    (paddedBlock l bs).extractLsb' (8 * i) 8 = bs.getD i 0 := by
  rw [paddedBlock, BitVec.extractLsb'_or, extractLsb'_lengthByte_low l hi, extractLsb'_le bs (by omega)]
  exact BitVec.zero_or

theorem extractLsb'_paddedBlock_top (l : Byte) {bs : List Byte} (h : bs.length ≤ 7) :
    (paddedBlock l bs).extractLsb' (8 * 7) 8 = l := by
  rw [paddedBlock, BitVec.extractLsb'_or, extractLsb'_lengthByte_top, extractLsb'_le bs (by decide),
    getD_of_length_le h]
  exact BitVec.or_zero

/-- Settles O33: LDFIN's M is a padded block of the bytes it reads. -/
theorem ldfinBlockBytes : Obligations.LdfinBlockBytes := by
  intro tgt s t b p e l m hbuf hptr hendp hlenb hnext hm
  obtain ⟨b', p', e', l', bs, hbuf', hptr', hendp', hlenb', hle, hshort, hread, rfl⟩ :=
    execLdfin_next.1 hnext
  cases hbuf.symm.trans hbuf'
  cases hptr.symm.trans hptr'
  cases hendp.symm.trans hendp'
  cases hlenb.symm.trans hlenb'
  have hblock : m = paddedBlock l bs := (Option.some_inj.1 hm).symm
  have hlen := memRead_length hread
  subst hblock
  refine ⟨extractLsb'_paddedBlock_top l (by omega), fun i hi => ?byte, fun i hlo hi => ?zero⟩
  case byte =>
    obtain ⟨hend, hbytes⟩ := memRead_eq_some.1 hread
    rw [extractLsb'_paddedBlock_low l bs (by omega), readByte_of_lt (by omega), ← hbytes]
    simp [hi]
  case zero =>
    rw [extractLsb'_paddedBlock_low l bs hi, getD_of_length_le (by omega)]

/-! The message back from its blocks (R128) -/

theorem zeroExtend_lengthByte (n : Nat) :
    (lengthByte n).zeroExtend 64 = BitVec.ofNat 64 (n % 256) := by
  apply BitVec.eq_of_toNat_eq
  rw [BitVec.zeroExtend_eq_setWidth, BitVec.toNat_setWidth, lengthByte_toNat, BitVec.toNat_ofNat]

/-- R151's final block is the padded block of the message's trailing bytes. -/
theorem finalBlock_eq (msg : List Byte) :
    finalBlock msg = paddedBlock (lengthByte msg.length) (msg.drop (8 * (msg.length / 8))) := by
  rw [finalBlock, paddedBlock, zeroExtend_lengthByte]

/-- The two parts of the block sequence: as many full blocks, and the final one. -/
theorem blocks_inj {m m' : List Byte} (h : blocks m = blocks m') :
    m.length / 8 = m'.length / 8 ∧ (∀ j, j < m.length / 8 → blockAt m j = blockAt m' j) ∧
      finalBlock m = finalBlock m' := by
  have hcount : m.length / 8 = m'.length / 8 := by
    simpa [blocks] using congrArg List.length h
  obtain ⟨hfull, hfinal⟩ := List.append_inj h (by simp [hcount])
  rw [← hcount] at hfull
  exact ⟨hcount, fun j hj => List.map_inj_left.1 hfull j (List.mem_range.2 hj),
    List.singleton_inj.1 hfinal⟩

/-- A full block holds its eight bytes. -/
theorem bytesLe64_blockAt {m : List Byte} {j : Nat} (hj : j < m.length / 8) :
    bytesLe64 (blockAt m j) = (m.drop (8 * j)).take 8 := by
  refine bytesLe64_le ?_
  rw [List.length_take, List.length_drop]
  omega

/-- Equal full blocks are equal bytes from the start of the message on. -/
theorem take_eq_of_blocks {m m' : List Byte} (hcount : m.length / 8 = m'.length / 8)
    (h : ∀ j, j < m.length / 8 → blockAt m j = blockAt m' j) {n : Nat} (hn : n ≤ m.length / 8) :
    m.take (8 * n) = m'.take (8 * n) := by
  induction n with
  | zero => rfl
  | succ n ih =>
    have hblock : (m.drop (8 * n)).take 8 = (m'.drop (8 * n)).take 8 := by
      rw [← bytesLe64_blockAt hn, ← bytesLe64_blockAt (hcount ▸ hn), h n hn]
    rw [Nat.mul_add_one, List.take_add, List.take_add, ih (Nat.le_of_succ_le hn), hblock]

/-- Padded blocks of up to seven bytes hold the length byte and, the number of bytes being known, the
bytes. -/
theorem paddedBlock_inj {l l' : Byte} {bs cs : List Byte} (hb : bs.length ≤ 7) (hc : cs.length ≤ 7)
    (h : paddedBlock l bs = paddedBlock l' cs) : l = l' ∧ (bs.length = cs.length → bs = cs) := by
  constructor
  · rw [← extractLsb'_paddedBlock_top l hb, h, extractLsb'_paddedBlock_top l' hc]
  · refine fun hlen => eq_of_getD hlen fun i hi => ?_
    rw [← extractLsb'_paddedBlock_low l bs (by omega), h, extractLsb'_paddedBlock_low l' cs (by omega)]

/-- Settles O60: the number of blocks gives the length up to its last three bits, the final block's length
byte those, and then the full blocks and the final one all bytes. -/
theorem blocksDetermineMessage : Obligations.BlocksDetermineMessage := by
  intro m m' h
  obtain ⟨hcount, hfull, hfinal⟩ := blocks_inj h
  rw [finalBlock_eq, finalBlock_eq] at hfinal
  obtain ⟨hbyte, htail⟩ := paddedBlock_inj (by rw [List.length_drop]; omega)
    (by rw [List.length_drop]; omega) hfinal
  have hlow : m.length % 256 = m'.length % 256 := by
    rw [← lengthByte_toNat, hbyte, lengthByte_toNat]
  have hlen : m.length = m'.length := by omega
  have hdrop := htail (by rw [List.length_drop, List.length_drop, hlen])
  have htake := take_eq_of_blocks hcount hfull (Nat.le_refl _)
  rw [← hcount] at hdrop
  rw [← List.take_append_drop (8 * (m.length / 8)) m, htake, hdrop, List.take_append_drop]

end Sys2Proof.Machine

/-! A hashing run from dispatch to its answer (R116, R117, R154): each step of the micro-program as a move
between states that differ in UPC, the working state, M and PTR alone, and then the steps in a row. -/

namespace Sys2Proof.Machine

/-! INJ3, ROUND, ROUND, INJ0 -/

theorem exec_round_of_values {s : State} {q : Quad} (tgt : RomIndex) (h0 : s.v0 = some q.v0)
    (h1 : s.v1 = some q.v1) (h2 : s.v2 = some q.v2) (h3 : s.v3 = some q.v3) :
    exec (.round tgt) s = .next ((s.setV (sipRound q)).goto tgt) :=
  execRound_next.2 ⟨q, h0, h1, h2, h3, rfl⟩

/-- Settles O15: each of the four reads what the one before it wrote. -/
theorem absorbSequence : Obligations.AbsorbSequence := by
  intro s q m a b c d h0 h1 h2 h3 hm
  refine ⟨_, _, _, inj3InjectsBlock a s q.v3 m h3 hm,
    exec_round_of_values (q := { q with v3 := q.v3 ^^^ m }) b h0 h1 h2 rfl,
    exec_round_of_values (q := sipRound { q with v3 := q.v3 ^^^ m }) c rfl rfl rfl rfl, ?_⟩
  exact inj0InjectsBlock d _ (sipRound (sipRound { q with v3 := q.v3 ^^^ m })).v0 m rfl hm

/-! Silent steps of a busy engine -/

/-- `n` steps from `s` to `t`, the engine busy before each of them and no response emitted. -/
inductive BusySteps : Nat → State → State → Prop where
  | refl (s : State) : BusySteps 0 s s
  | cons {n : Nat} {s t u : State} (hbusy : s.upc ≠ 0) (hstep : step s = .next t)
      (hsilent : t.responses = s.responses) (hrest : BusySteps n t u) : BusySteps (n + 1) s u

theorem core_run_succ (M : Host.Core) {s t : M.State} (h : M.step s = .next t) (n : Nat) :
    M.run (n + 1) s = M.run n t := by
  rw [Host.Core.run, h]

theorem run_succ {s t : State} (h : step s = .next t) (n : Nat) :
    Host.Core.run Sys2Proof.core (n + 1) s = Host.Core.run Sys2Proof.core n t :=
  core_run_succ Sys2Proof.core h n

namespace BusySteps

theorem trans {n k : Nat} {s t u : State} (h : BusySteps n s t) (h' : BusySteps k t u) :
    BusySteps (n + k) s u := by
  induction h with
  | refl s => rwa [Nat.zero_add]
  | cons hbusy hstep hsilent _ ih =>
    rw [Nat.add_right_comm]
    exact .cons hbusy hstep hsilent (ih h')

theorem run_add {n : Nat} {s t : State} (h : BusySteps n s t) (k : Nat) :
    Host.Core.run Sys2Proof.core (n + k) s = Host.Core.run Sys2Proof.core k t := by
  induction h with
  | refl s => rw [Nat.zero_add]
  | cons hbusy hstep hsilent _ ih => rw [Nat.add_right_comm, run_succ hstep, ih]

/-- On the way the engine is busy and has not answered. -/
theorem busy_before {n : Nat} {s t : State} (h : BusySteps n s t) (hend : t.upc ≠ 0) {j : Nat}
    (hj : j ≤ n) : ∃ u : State, Host.Core.run Sys2Proof.core j s = .next u ∧ u.upc ≠ 0 ∧
      u.responses = s.responses := by
  induction h generalizing j with
  | refl s => exact ⟨s, by rw [Nat.le_zero.1 hj]; rfl, hend, rfl⟩
  | @cons n s t u hbusy hstep hsilent _ ih =>
    cases j with
    | zero => exact ⟨s, rfl, hbusy, rfl⟩
    | succ j =>
      obtain ⟨w, hrun, hw, hresponses⟩ := ih hend (Nat.le_of_succ_le_succ hj)
      exact ⟨w, (run_succ hstep j).trans hrun, hw, hresponses.trans hsilent⟩

end BusySteps

/-! The states of a run -/

/-- The state of a run at a ROM index: the base `d` holds what no step of it changes. -/
def inRun (d : State) (k : RomIndex) (q : Quad) (m : Option Word) (p : Nat) : State :=
  { d with v0 := some q.v0, v1 := some q.v1, v2 := some q.v2, v3 := some q.v3, m := m, ptr := some p
           upc := k }

/-- The state a run ends in, with the answer `tag` (R116). -/
def State.answered (d : State) (tag : Word) (p : Nat) : State :=
  { d with responses := d.responses ++ [.okTag tag], ptr := some p
           v0 := none, v1 := none, v2 := none, v3 := none, m := none, buf := none, upc := 0 }

section Moves

variable {d : State} {k k' : RomIndex} {q q' : Quad} {m m' : Option Word} {p p' : Nat} {w : Word}

/-- The micro-operation at the index decides the step; only index 0 holds IDLE. -/
theorem busySteps_one {i : Instr} (hk : microInstr k = i) (hi : i ≠ .idle 1)
    (hexec : exec i (inRun d k q m p) = .next (inRun d k' q' m' p')) :
    BusySteps 1 (inRun d k q m p) (inRun d k' q' m' p') := by
  have hbusy : k ≠ 0 := by
    rintro rfl
    exact hi hk.symm
  subst hk
  exact .cons hbusy ((step_eq_exec _).trans hexec) rfl (.refl _)

theorem busySteps_inj3 (hk : microInstr k = .inj3 k') :
    BusySteps 1 (inRun d k q (some w) p) (inRun d k' { q with v3 := q.v3 ^^^ w } (some w) p) :=
  busySteps_one hk nofun (inj3InjectsBlock k' _ q.v3 w rfl rfl)

theorem busySteps_round (hk : microInstr k = .round k') :
    BusySteps 1 (inRun d k q m p) (inRun d k' (sipRound q) m p) :=
  busySteps_one hk nofun (exec_round_of_values k' rfl rfl rfl rfl)

theorem busySteps_inj0 (hk : microInstr k = .inj0 k') :
    BusySteps 1 (inRun d k q (some w) p) (inRun d k' { q with v0 := q.v0 ^^^ w } (some w) p) :=
  busySteps_one hk nofun (inj0InjectsBlock k' _ q.v0 w rfl rfl)

theorem busySteps_mark (hk : microInstr k = .mark k') :
    BusySteps 1 (inRun d k q m p) (inRun d k' { q with v2 := q.v2 ^^^ finMark } m p) :=
  busySteps_one hk nofun (markSeparatesFinalization k' _ q.v2 rfl)

/-- The four micro-operations that absorb a block, in the loop's body and after LDFIN (R144). -/
theorem busySteps_absorb {k1 k2 k3 : RomIndex} (hk : microInstr k = .inj3 k1)
    (hk1 : microInstr k1 = .round k2) (hk2 : microInstr k2 = .round k3)
    (hk3 : microInstr k3 = .inj0 k') :
    BusySteps 4 (inRun d k q (some w) p) (inRun d k' (absorb q w) (some w) p) :=
  (((busySteps_inj3 hk).trans (busySteps_round hk1)).trans (busySteps_round hk2)).trans
    (busySteps_inj0 hk3)

/-- MARK and the four rounds of the finalization (R152). -/
theorem busySteps_finalize : BusySteps 5 (inRun d 13 q m p) (inRun d 18 (finalize q) m p) :=
  ((((busySteps_mark rfl).trans (busySteps_round rfl)).trans (busySteps_round rfl)).trans
    (busySteps_round rfl)).trans (busySteps_round rfl)

theorem step_fold : step (inRun d 18 q m p) = .next (d.answered (foldV q) p) :=
  (step_eq_exec _).trans (foldAnswersTag 0 (inRun d 18 q m p) _ _ _ _ rfl rfl rfl rfl)

end Moves

/-! The message range -/

/-- The base `d` of a run has the buffer `b`, and the message is its `cnt` bytes from `off` on. -/
structure RunBase (d : State) (b : Memory) (off cnt : Nat) : Prop where
  buf : d.buf = some b
  endp : d.endp = some (off + cnt)
  lenb : d.lenb = some (lengthByte cnt)
  end_le : off + cnt ≤ b.len

/-- The bytes of the message (R129). -/
def rangeBytes (b : Memory) (off cnt : Nat) : List Byte := ((memBytes b).drop off).take cnt

section Range

variable {d : State} {b : Memory} {off cnt : Nat} {q : Quad} {m : Option Word}

theorem RunBase.length_rangeBytes (h : RunBase d b off cnt) : (rangeBytes b off cnt).length = cnt := by
  have hend := h.end_le
  rw [rangeBytes, List.length_take, List.length_drop, memBytes_length]
  omega

/-- A full block of the message, where LDBLK reads it. -/
theorem blockAt_rangeBytes {j : Nat} (hj : 8 * j + 8 ≤ cnt) :
    blockAt (rangeBytes b off cnt) j = le (((memBytes b).drop (off + 8 * j)).take 8) := by
  rw [blockAt, rangeBytes, List.drop_take, List.take_take, List.drop_drop,
    Nat.min_eq_left (by omega)]

/-- The final block of the message, as LDFIN builds it. -/
theorem finalBlock_rangeBytes (h : RunBase d b off cnt) :
    finalBlock (rangeBytes b off cnt) = paddedBlock (lengthByte cnt)
      (((memBytes b).drop (off + 8 * (cnt / 8))).take (off + cnt - (off + 8 * (cnt / 8)))) := by
  rw [finalBlock_eq, h.length_rangeBytes, rangeBytes, List.drop_take, List.drop_drop,
    Nat.add_sub_add_left]

/-- Once round the loop (R115): TEST, LDBLK and the block's absorption. -/
theorem busySteps_loopBody (h : RunBase d b off cnt) {j : Nat} (hj : 8 * j + 8 ≤ cnt) :
    BusySteps 6 (inRun d 2 q m (off + 8 * j))
      (inRun d 2 (absorb q (blockAt (rangeBytes b off cnt) j))
        (some (blockAt (rangeBytes b off cnt) j)) (off + 8 * (j + 1))) := by
  have hend := h.end_le
  have htest : BusySteps 1 (inRun d 2 q m (off + 8 * j)) (inRun d 3 q m (off + 8 * j)) :=
    busySteps_one rfl nofun
      ((testBranches 8 (inRun d 2 q m (off + 8 * j)) _ _ rfl h.endp).1 (by omega) 3 rfl)
  have hload : BusySteps 1 (inRun d 3 q m (off + 8 * j))
      (inRun d 4 q (some (blockAt (rangeBytes b off cnt) j)) (off + 8 * (j + 1))) := by
    rw [blockAt_rangeBytes hj]
    exact busySteps_one rfl nofun
      (ldblkLoadsBlock 4 (inRun d 3 q m (off + 8 * j)) b _ h.buf rfl (by omega))
  exact (htest.trans hload).trans (busySteps_absorb rfl rfl rfl rfl)

/-- `j` times round the loop: the first `j` blocks are absorbed. -/
theorem busySteps_loop (h : RunBase d b off cnt) {j : Nat} (hj : 8 * j ≤ cnt) :
    ∃ m', BusySteps (6 * j) (inRun d 2 q m off)
      (inRun d 2 (((List.range j).map (blockAt (rangeBytes b off cnt))).foldl absorb q) m'
        (off + 8 * j)) := by
  induction j with
  | zero => exact ⟨m, .refl _⟩
  | succ j ih =>
    obtain ⟨m', hloop⟩ := ih (by omega)
    refine ⟨some (blockAt (rangeBytes b off cnt) j), ?_⟩
    rw [List.range_succ, List.map_append, List.foldl_append]
    exact hloop.trans (busySteps_loopBody h (by omega))

/-- After the loop: TEST, LDFIN, the final block's absorption and the finalization. -/
theorem busySteps_end (h : RunBase d b off cnt) :
    BusySteps 11 (inRun d 2 q m (off + 8 * (cnt / 8)))
      (inRun d 18 (finalize (absorb q (finalBlock (rangeBytes b off cnt))))
        (some (finalBlock (rangeBytes b off cnt))) (off + cnt)) := by
  have hend := h.end_le
  have htest : BusySteps 1 (inRun d 2 q m (off + 8 * (cnt / 8)))
      (inRun d 8 q m (off + 8 * (cnt / 8))) :=
    busySteps_one rfl nofun
      ((testBranches 8 (inRun d 2 q m (off + 8 * (cnt / 8))) _ _ rfl h.endp).2 (by omega))
  have hload : BusySteps 1 (inRun d 8 q m (off + 8 * (cnt / 8)))
      (inRun d 9 q (some (finalBlock (rangeBytes b off cnt))) (off + cnt)) := by
    rw [finalBlock_rangeBytes h]
    exact busySteps_one rfl nofun (ldfinBuildsFinalBlock 9 (inRun d 8 q m (off + 8 * (cnt / 8))) b _ _ _
      h.buf rfl h.endp h.lenb (by omega) (by omega) hend)
  exact ((htest.trans hload).trans (busySteps_absorb rfl rfl rfl rfl)).trans busySteps_finalize

/-- The whole run after LOADV, to the state before FOLD. -/
theorem busySteps_message (h : RunBase d b off cnt) :
    BusySteps (6 * (cnt / 8) + 11) (inRun d 2 q m off)
      (inRun d 18 (finalize ((blocks (rangeBytes b off cnt)).foldl absorb q))
        (some (finalBlock (rangeBytes b off cnt))) (off + cnt)) := by
  obtain ⟨m', hloop⟩ := busySteps_loop (q := q) (m := m) h (j := cnt / 8) (by omega)
  rw [blocks, List.foldl_append, h.length_rangeBytes]
  exact hloop.trans (busySteps_end h)

end Range

/-! A run from the idle engine -/

/-- The run that the dispatch leading from `s` to `d` opens: its `14 + 6*floor(cnt/8)` steps, and the engine
busy and silent before the last of them (R117, R154). -/
theorem run_of_dispatch {s d : State} {b : Memory} {off cnt : Nat} {key : List Byte}
    (hstep : step s = .next d) (hsilent : d.responses = s.responses) (hupc : d.upc = 1)
    (hptr : d.ptr = some off) (h0 : d.base0 = some (baseOf0 key)) (h1 : d.base1 = some (baseOf1 key))
    (h : RunBase d b off cnt) :
    Host.Core.run Sys2Proof.core (14 + 6 * (cnt / 8)) s =
        .next (d.answered (sipHash24 key (rangeBytes b off cnt)) (off + cnt)) ∧
      ∀ j, 0 < j → j < 14 + 6 * (cnt / 8) → ∃ u : State,
        Host.Core.run Sys2Proof.core j s = .next u ∧ u.upc ≠ 0 ∧ u.responses = s.responses := by
  have hload : step d = .next (inRun d 2 (initV (baseOf0 key) (baseOf1 key)) d.m off) := by
    rw [step_eq_exec, hupc, inRun, ← hptr]
    exact loadvCreatesWorkingState 2 d _ _ h0 h1
  have hbusy : BusySteps (6 * (cnt / 8) + 11 + 1) d _ :=
    .cons (by rw [hupc]; decide) hload rfl (busySteps_message h)
  constructor
  · have hcount : 14 + 6 * (cnt / 8) = 6 * (cnt / 8) + 11 + 1 + 1 + 1 := by omega
    rw [hcount]
    exact ((run_succ hstep _).trans (hbusy.run_add 1)).trans (run_succ step_fold 0)
  · intro j hpos hj
    obtain ⟨j, rfl⟩ : ∃ i, j = i + 1 := ⟨j - 1, by omega⟩
    obtain ⟨u, hrun, hu, hresponses⟩ :=
      hbusy.busy_before (j := j) (show (18 : RomIndex) ≠ 0 by decide) (by omega)
    exact ⟨u, (run_succ hstep j).trans hrun, hu, hresponses.trans hsilent⟩

/-- A key of 16 bytes has its second word in its bytes from 8 on. -/
theorem baseOf1_eq {key : List Byte} (h : key.length = 16) :
    baseOf1 key = keyC1 ^^^ le (key.drop 8) := by
  rw [baseOf1, keyWord1, List.take_of_length_le (by rw [List.length_drop]; omega)]

/-- Settles O58: HASH dispatches the run on the whole buffer. -/
theorem hashRunAnswersTag : Obligations.HashRunAnswersTag := by
  intro s o rest key hidle hkey hlen h0 h1 haccepts hhonest hop hpres
  have hdispatch : step s = .next (((s.accept rest).attach o.data 0 o.data.len
      (lengthByte o.data.len)).goto 1) := by
    rw [step_of_accepts hidle haccepts, handleOffer_of_hash (s := s.accept rest) hhonest.1 hop]
    exact hashCommand_next.2 ⟨hhonest.2, .inr (.inr ⟨hkey, hpres, rfl⟩)⟩
  have hall : rangeBytes o.data 0 o.data.len = memBytes o.data := by
    rw [rangeBytes, List.drop_zero, List.take_of_length_le (Nat.le_of_eq (memBytes_length _))]
  have hrun := run_of_dispatch (b := o.data) (off := 0) (cnt := o.data.len) (key := key) hdispatch rfl
    rfl rfl h0 (by rw [baseOf1_eq hlen]; exact h1)
    ⟨rfl, congrArg some (Nat.zero_add _).symm, rfl, Nat.le_of_eq (Nat.zero_add _)⟩
  rw [hall, Nat.zero_add] at hrun
  rw [← lengthByte_eq]
  exact hrun

/-- Settles O59: HASHR dispatches the run on its range. -/
theorem hashrRunAnswersTag : Obligations.HashrRunAnswersTag := by
  intro s o rest key off cnt hidle hkey hlen h0 h1 haccepts hhonest hop hpres hoff hcnt hend
  have hdispatch : step s = .next (((s.accept rest).attach o.data off (off + cnt)
      (lengthByte cnt)).goto 1) := by
    rw [step_of_accepts hidle haccepts, handleOffer_of_hashr (s := s.accept rest) hhonest.1 hop]
    exact hashrCommand_of_range (s := s.accept rest) hhonest.2 hkey hpres hoff hcnt hend
  rw [← lengthByte_eq]
  exact run_of_dispatch (b := o.data) hdispatch rfl rfl rfl h0 (by rw [baseOf1_eq hlen]; exact h1)
    ⟨rfl, rfl, rfl, hend⟩

end Sys2Proof.Machine
